-- ==== Sys2Proof/Word.lean ====
section
/-! DEFINITION. The words of FBRP: bytes, page and segment numbers, the host's command word (10_state.md R20, R24;
30_encoding.md R90). Every quantity of the hardware is unsigned (00_scope.md R10). -/

namespace Sys2Proof

/-- A byte: bit 0 least significant, bit 7 most significant (R10). -/
abbrev Byte := BitVec 8

/-- A page number, 0 to 7 (R20). -/
abbrev PageIdx := BitVec 3

/-- A segment (byte column) number, 0 to 127 (R20). -/
abbrev SegIdx := BitVec 7

/-- A host command word in the format CW (R90). -/
abbrev CommandWord := BitVec 64

end Sys2Proof
end

