-- ==== Sys2Proof/Config.lean ====
section
/-! DEFINITION. What an implementation fixes (00_scope.md R5, R6), what the transport answers (R12, R33), and the free
values: constants without a body, so that no proof can lean on what they are. -/

namespace Sys2Proof

/-! The fixed parameters of 00_scope.md R5. -/

abbrev PAGES : Nat := 8
abbrev SEGS : Nat := 128
abbrev CELL_BITS : Nat := 8
abbrev WIDTH_PX : Nat := 128
abbrev HEIGHT_PX : Nat := 64
abbrev ROWS : Nat := 64
abbrev ROW_BYTES : Nat := 16
abbrev BITMAP_LEN : Nat := 1024
abbrev GLYPH_BYTES : Nat := 8
abbrev GLYPH_ENTRIES : Nat := 256

/-- The status of a transaction, one bit (60_exceptions.md R218): `ok` is 0, `fail` is 1 (10_state.md R33). -/
inductive Status where
  | ok
  | fail
deriving DecidableEq, Repr, Inhabited

/-- What the transport answers to one transaction (10_state.md R33): the handle of `begin_transaction`, the two `ok`
results of the write calls, which FBRP does not inspect (30_encoding.md R96), the status of `end_transaction`, and, for
a transaction that fails or is abandoned, how many payload bytes the device took (20_memory.md R63). -/
structure Answer where
  handle  : Nat
  addrOk  : Bool
  bytesOk : Bool
  status  : Status
  taken   : Nat
deriving DecidableEq, Repr, Inhabited

/-- The open parameter COL_WRAP (20_memory.md R62, decision D27): what the device's column counter holds after a data
byte at column 127. `unspecified` leaves each such value free. -/
inductive ColWrap where
  | to (c : SegIdx)
  | unspecified
deriving DecidableEq, Repr

/-- The configuration of 00_scope.md R6. It is fixed at build time (10_state.md R30); State carries it and no step
changes it. -/
structure Config where
  devAddr        : BitVec 7
  ctrlCmdStream  : Byte
  ctrlCmdSingle  : Byte
  ctrlDataStream : Byte
  colLowBase     : Byte
  colHighBase    : Byte
  pageSelBase    : Byte
  nl             : Byte
  /-- The transport's timeout (R6, R223): a parameter of the transport, read by no rule of FBRP. -/
  timeout        : Nat
  colWrap        : ColWrap
deriving DecidableEq, Repr

namespace Config

/-- The usual values of R6. PRESUMED (93_implementation_defined.md G1 to G4: general knowledge, not in the source);
opcode_table.json prints its patterns with them. COL_WRAP is left open; the timeout's number is a DESIGN CHOICE that
nothing reads. -/
def usual : Config where
  devAddr        := 0x3C#7
  ctrlCmdStream  := 0x00#8
  ctrlCmdSingle  := 0x80#8
  ctrlDataStream := 0x40#8
  colLowBase     := 0x00#8
  colHighBase    := 0x10#8
  pageSelBase    := 0xB0#8
  nl             := 0x0A#8
  timeout        := 0
  colWrap        := .unspecified

/-- FREE VALUE. The transport's answer to the `n`-th transaction since reset, where State lists none (60_exceptions.md
R217, U5, U6: each status, and the prefix taken, is a draw). -/
opaque freeAnswer : Nat → Answer

/-- FREE VALUE. A value of the device's column counter the spec does not give (20_memory.md R62, U4). -/
opaque freeColumn : Nat → SegIdx

/-- FREE VALUE. A value of the device's page register the spec does not give (20_memory.md R61: a command byte outside
the three is out of scope). -/
opaque freePage : Nat → PageIdx

/-- FREE VALUE. The device's page register when FBRP has just been reset (70_reset_and_hazards.md R242, U7). -/
opaque freeDevPage : PageIdx

/-- FREE VALUE. The device's column counter when FBRP has just been reset (R242, U7). -/
opaque freeDevCol : SegIdx

/-- FREE VALUE. `Glyph(c)[i]` (20_memory.md R57, U21): an uninterpreted total function. -/
opaque glyph : Byte → BitVec 3 → Byte

/-- FREE VALUE. What the host's memory answers for operand index `i` of operation number `n` when the real buffer is
shorter than `c_len` (70_reset_and_hazards.md R252: "whatever the host's memory system returns"). -/
opaque freeOperand : Nat → Nat → Byte

/-- FREE VALUE. What the remap unit's source byte register holds after the CONVERT that is operation number `n`
(10_state.md R32: after DONE no copy of an operand byte is held; no rule says what the register then holds). -/
opaque freeSourceByte : Nat → Byte

end Config

end Sys2Proof
end

