-- ==== Sys2Proof/Syntax.lean ====
section
/-! DEFINITION. The instructions: one constructor for each of the 15 rows of spec/opcode_table.json
(30_encoding.md R106). -/

namespace Sys2Proof

/-- The operand fields of a command word (30_encoding.md R90). Taking a word latches all four whatever the operation
(10_state.md R31), so every operation carries all four; R92 says which ones it uses. -/
structure Operands where
  page  : BitVec 8
  seg   : BitVec 8
  width : BitVec 8
  len   : BitVec 16
deriving DecidableEq, Repr

inductive Instr where
  /-- CW op 0: convert-bitmap-to-buffer (R136). -/
  | convert (o : Operands)
  /-- CW op 1: flush-buffer (R174). -/
  | flush (o : Operands)
  /-- CW op 2: clear-display (R200). -/
  | clear (o : Operands)
  /-- CW op 3: display-image (R178). -/
  | blit (o : Operands)
  /-- CW op 4: display-text (R190). -/
  | text (o : Operands)
  /-- CMD8: the device receives `COL_LOW_BASE | n` as a command (R150, R61). -/
  | setColLow (n : BitVec 4)
  /-- CMD8: the device receives `COL_HIGH_BASE | n` as a command (R151, R61). -/
  | setColHigh (n : BitVec 4)
  /-- CMD8: the device receives `PAGE_SEL_BASE | p` as a command (R152, R61). -/
  | setPage (p : PageIdx)
  /-- CTRL8: a group of commands that extends to the end of the transaction begins (R97). -/
  | ctrlCmdStream
  /-- CTRL8: a group of one command begins (R97). -/
  | ctrlCmdSingle
  /-- CTRL8: a group of pixel data that extends to the end of the transaction begins (R97). -/
  | ctrlDataStream
  /-- FRAME: the addressing sequence for page `p`, segment `s`, one transaction (R98, R154). -/
  | fa (p : PageIdx) (s : SegIdx)
  /-- FRAME: the data-stream write of `bytes`, one transaction (R99, R155). -/
  | fd (bytes : List Byte)
  /-- FRAME: the clear frame for page `p`, one transaction (R100, R156). -/
  | fc (p : PageIdx)
  /-- FUNC: the single-bit copy primitive (R130). -/
  | copyBit (src : Byte) (srcBit : BitVec 3) (dst : Byte) (dstBit : BitVec 3)
deriving DecidableEq, Repr

end Sys2Proof
end

