-- ==== Sys2Proof/WellFormed.lean ====
section
/-! DEFINITION. Well-formed instructions and configurations. Most ranges hold by the types of Syntax; what is left is
the length of a data burst (30_encoding.md R99) and the constraints on a configuration (00_scope.md R7). -/

namespace Sys2Proof

/-- `FD(bytes)` is a frame for 1 to 128 bytes (R99); every other instruction is well formed by its types. -/
def Instr.wf : Instr → Bool
  | .convert _ => true
  | .flush _ => true
  | .clear _ => true
  | .blit _ => true
  | .text _ => true
  | .setColLow _ => true
  | .setColHigh _ => true
  | .setPage _ => true
  | .ctrlCmdStream => true
  | .ctrlCmdSingle => true
  | .ctrlDataStream => true
  | .fa _ _ => true
  | .fd bytes => decide (1 ≤ bytes.length) && decide (bytes.length ≤ 128)
  | .fc _ => true
  | .copyBit _ _ _ _ => true

namespace Config

/-- R7 (a): the control bytes are pairwise different. -/
def controlsDiffer (c : Config) : Bool :=
  c.ctrlCmdStream != c.ctrlCmdSingle && c.ctrlCmdStream != c.ctrlDataStream && c.ctrlCmdSingle != c.ctrlDataStream

/-- R7 (b) and (c): the operand bits of each opcode base are zero. -/
def basesClear (c : Config) : Bool :=
  c.colLowBase &&& 0x0F#8 == 0x00#8 && c.colHighBase &&& 0x0F#8 == 0x00#8 && c.pageSelBase &&& 0x07#8 == 0x00#8

/-- R7 (d), given (b) and (c): the three sets of command bytes are pairwise disjoint exactly when the bytes' high
nibbles differ. -/
def commandsDiffer (c : Config) : Bool :=
  c.colLowBase != c.colHighBase && c.pageSelBase &&& 0xF0#8 != c.colLowBase &&
    c.pageSelBase &&& 0xF0#8 != c.colHighBase

/-- The constraints of R7. -/
def wf (c : Config) : Bool := c.controlsDiffer && c.basesClear && c.commandsDiffer

end Config

end Sys2Proof
end

