-- ==== Sys2Proof/Decode.lean ====
section
/-! DEFINITION. Decoding and encoding (30_encoding.md): command words (R90 to R93), controller command bytes (R101 to
R103), control bytes (R97) and transaction payloads (R98 to R100). What a byte means depends on where it is received, so
the decoder is given the encoding together with its place. -/

namespace Sys2Proof

/-- An encoded instruction with the place it stands at. -/
inductive Encoded where
  /-- A command word on CMD (R90). -/
  | word (w : CommandWord)
  /-- The payload of one transaction on TX (R96). -/
  | payload (bytes : List Byte)
  /-- A byte the device receives where a control byte stands (R97). -/
  | control (b : Byte)
  /-- A byte the device receives as a command (R61). -/
  | command (b : Byte)
  /-- The operands of the copy primitive, which has no encoding (R130). -/
  | bitCopy (src : Byte) (srcBit : BitVec 3) (dst : Byte) (dstBit : BitVec 3)
deriving DecidableEq, Repr

/-- Why an encoding is no instruction. -/
inductive DecodeError where
  /-- A command word with op 5, 6 or 7 (R93). -/
  | reservedOp
  /-- A command word with a reserved bit set (R93). -/
  | reservedBits
  /-- A payload that is none of FA, FD, FC (R105). -/
  | notAFrame
  /-- A byte that is none of the three control bytes (R97). -/
  | notAControlByte
  /-- A byte that is none of the three commands (R61). -/
  | notACommandByte
deriving DecidableEq, Repr

inductive Decoded where
  | instr (i : Instr)
  | rejected (e : DecodeError)
deriving DecidableEq, Repr

/-! ## The byte layouts -/

/-- `COL_LOW_BASE | (s & 0x0F)` (R102). -/
def colLowByte (c : Config) (s : Byte) : Byte := c.colLowBase ||| (s &&& 0x0F#8)

/-- `COL_HIGH_BASE | ((s >> 4) & 0x0F)` (R102). -/
def colHighByte (c : Config) (s : Byte) : Byte := c.colHighBase ||| ((s >>> 4) &&& 0x0F#8)

/-- `PAGE_SEL_BASE | p` (R103); the page is not masked. -/
def pageByte (c : Config) (p : Byte) : Byte := c.pageSelBase ||| p

/-- The addressing sequence's payload (R98): column-low, column-high, page-select, in that order. -/
def frameFA (c : Config) (p s : Byte) : List Byte :=
  [c.ctrlCmdStream, colLowByte c s, colHighByte c s, pageByte c p]

/-- The data-stream write's payload (R99). -/
def frameFD (c : Config) (bytes : List Byte) : List Byte := c.ctrlDataStream :: bytes

/-- The clear frame's payload (R100). -/
def frameFC (c : Config) (p : Byte) : List Byte :=
  [c.ctrlCmdSingle, pageByte c p, c.ctrlDataStream] ++ List.replicate 128 0x00#8

/-! ## Command words -/

namespace CommandWord

/-- Bits 2:0 (R90). -/
def op (w : CommandWord) : BitVec 3 := w.extractLsb' 0 3

/-- Bits 7:3, reserved (R90). -/
def rsv0 (w : CommandWord) : BitVec 5 := w.extractLsb' 3 5

/-- Bits 63:48, reserved (R90). -/
def rsv1 (w : CommandWord) : BitVec 16 := w.extractLsb' 48 16

/-- `page` 15:8, `seg` 23:16, `width` 31:24, `len` 47:32 (R90). -/
def operands (w : CommandWord) : Operands where
  page  := w.extractLsb' 8 8
  seg   := w.extractLsb' 16 8
  width := w.extractLsb' 24 8
  len   := w.extractLsb' 32 16

/-- Both reserved fields are 0 (R93). -/
def reservedClear (w : CommandWord) : Bool := w.rsv0 == 0#5 && w.rsv1 == 0#16

/-- The word of an operation code and its operands, reserved bits 0 (R90). -/
def make (op : BitVec 3) (o : Operands) : CommandWord :=
  0#16 ++ o.len ++ o.width ++ o.seg ++ o.page ++ 0#5 ++ op

end CommandWord

/-- The operation codes of R91; 5, 6 and 7 and non-zero reserved bits are rejected (R93). -/
def decodeWord (w : CommandWord) : Decoded :=
  if w.reservedClear then
    if w.op = 0#3 then .instr (.convert w.operands)
    else if w.op = 1#3 then .instr (.flush w.operands)
    else if w.op = 2#3 then .instr (.clear w.operands)
    else if w.op = 3#3 then .instr (.blit w.operands)
    else if w.op = 4#3 then .instr (.text w.operands)
    else .rejected .reservedOp
  else .rejected .reservedBits

/-! ## Bytes and payloads -/

/-- The control bytes of R97. -/
def decodeControl (c : Config) (b : Byte) : Decoded :=
  if b = c.ctrlCmdStream then .instr .ctrlCmdStream
  else if b = c.ctrlCmdSingle then .instr .ctrlCmdSingle
  else if b = c.ctrlDataStream then .instr .ctrlDataStream
  else .rejected .notAControlByte

/-- The command bytes of R101: the base stands in the high bits, the operand in the low ones. -/
def decodeCommand (c : Config) (b : Byte) : Decoded :=
  if b &&& 0xF0#8 = c.colLowBase then .instr (.setColLow (b.extractLsb' 0 4))
  else if b &&& 0xF0#8 = c.colHighBase then .instr (.setColHigh (b.extractLsb' 0 4))
  else if b &&& 0xF8#8 = c.pageSelBase then .instr (.setPage (b.extractLsb' 0 3))
  else .rejected .notACommandByte

/-- A payload that is an addressing sequence (R98): a legal segment has a high nibble of at most 7 (R102). -/
def decodeFA (c : Config) (bytes : List Byte) : Option Instr :=
  match bytes with
  | [b0, b1, b2, b3] =>
    if b0 = c.ctrlCmdStream then
      match decodeCommand c b1, decodeCommand c b2, decodeCommand c b3 with
      | .instr (.setColLow l), .instr (.setColHigh h), .instr (.setPage p) =>
        if h.getLsbD 3 then none else some (.fa p (h.extractLsb' 0 3 ++ l))
      | _, _, _ => none
    else none
  | _ => none

/-- A payload that is a data-stream write of 1 to 128 bytes (R99). -/
def decodeFD (c : Config) (bytes : List Byte) : Option Instr :=
  match bytes with
  | b0 :: rest => if b0 = c.ctrlDataStream ∧ (Instr.fd rest).wf then some (.fd rest) else none
  | [] => none

/-- A payload that is a clear frame (R100). -/
def decodeFC (c : Config) (bytes : List Byte) : Option Instr :=
  match bytes with
  | b0 :: b1 :: b2 :: rest =>
    if b0 = c.ctrlCmdSingle ∧ b2 = c.ctrlDataStream ∧ rest = List.replicate 128 0x00#8 then
      match decodeCommand c b1 with
      | .instr (.setPage p) => some (.fc p)
      | _ => none
    else none
  | _ => none

/-- The three payload shapes (R98 to R100); FBRP emits no other (R105). -/
def decodePayload (c : Config) (bytes : List Byte) : Decoded :=
  match decodeFA c bytes, decodeFD c bytes, decodeFC c bytes with
  | some i, _, _ => .instr i
  | none, some i, _ => .instr i
  | none, none, some i => .instr i
  | none, none, none => .rejected .notAFrame

/-- The decoder: total on every word, byte and payload. -/
def decode (c : Config) : Encoded → Decoded
  | .word w => decodeWord w
  | .payload bytes => decodePayload c bytes
  | .control b => decodeControl c b
  | .command b => decodeCommand c b
  | .bitCopy src srcBit dst dstBit => .instr (.copyBit src srcBit dst dstBit)

/-! ## The encoder -/

/-- The encoding of an instruction, from R91, R97 to R103. -/
def encode (c : Config) : Instr → Encoded
  | .convert o => .word (CommandWord.make 0#3 o)
  | .flush o => .word (CommandWord.make 1#3 o)
  | .clear o => .word (CommandWord.make 2#3 o)
  | .blit o => .word (CommandWord.make 3#3 o)
  | .text o => .word (CommandWord.make 4#3 o)
  | .setColLow n => .command (c.colLowBase ||| n.setWidth 8)
  | .setColHigh n => .command (c.colHighBase ||| n.setWidth 8)
  | .setPage p => .command (c.pageSelBase ||| p.setWidth 8)
  | .ctrlCmdStream => .control c.ctrlCmdStream
  | .ctrlCmdSingle => .control c.ctrlCmdSingle
  | .ctrlDataStream => .control c.ctrlDataStream
  | .fa p s => .payload (frameFA c (p.setWidth 8) (s.setWidth 8))
  | .fd bytes => .payload (frameFD c bytes)
  | .fc p => .payload (frameFC c (p.setWidth 8))
  | .copyBit src srcBit dst dstBit => .bitCopy src srcBit dst dstBit

/-! ## The opcode table's numbering -/

/-- The `n` bytes of a number, the first byte in the highest bits: opcode_table.json writes a frame's byte 0 leftmost
and numbers its bits from the right (its `fields` and `fixed`). -/
def tableBytes : Nat → Nat → List Byte
  | 0, _ => []
  | n + 1, w => BitVec.ofNat 8 (w / 256 ^ n) :: tableBytes n w

/-- The payload of a FRAME row: a clear frame's row gives only its first data byte, the other data bytes are 0. -/
def tablePayload (nbits w : Nat) : List Byte :=
  let bytes := tableBytes (nbits / 8) w
  if bytes.head? = some Config.usual.ctrlCmdSingle then bytes ++ List.replicate (131 - bytes.length) 0x00#8 else bytes

/-- An opcode-table row's bits as an encoding at its place: 64 bits are a command word, 8 bits a device byte (a control
byte where the value is one, else a command byte), no bits the copy primitive, which has no encoding, and any other
width a payload. -/
def tableEncoded (nbits w : Nat) : Encoded :=
  match nbits with
  | 0 => .bitCopy 0#8 0#3 0#8 0#3
  | 8 =>
    match decodeControl Config.usual (BitVec.ofNat 8 w) with
    | .instr _ => .control (BitVec.ofNat 8 w)
    | .rejected _ => .command (BitVec.ofNat 8 w)
  | 64 => .word (BitVec.ofNat 64 w)
  | n => .payload (tablePayload n w)

/-- What the decoder reads from a row's bits, under the configuration the table's patterns are printed for. -/
def decodeTableWord (nbits w : Nat) : Option Instr :=
  match decode Config.usual (tableEncoded nbits w) with
  | .instr i => some i
  | .rejected _ => none

end Sys2Proof
end

