-- ==== Sys2Proof/Machine/State.lean ====
section
/-! DEFINITION. The state of FBRP, of the device behind the transport and of the block's five channels, as plain data,
and its value after reset (10_state.md R20 to R40). INVENTORY.md lists every field with the rule that names it. -/

namespace Sys2Proof.Machine

/-- A byte memory: the listed cells, addresses strictly rising. What an unlisted address reads as is said by the read
operation of each memory (Machine/Ops.lean). -/
abbrev Memory := List Host.Cell

/-- 10_state.md R27. -/
inductive Phase where
  | idle
  | check
  | run
  | done
deriving DecidableEq, Repr

/-- `r_code` (10_state.md R29); code 3 is never produced. -/
inductive ResultCode where
  | ok
  | xfail
  | errPrecond
deriving DecidableEq, Repr

/-- `r_cause` (60_exceptions.md R211); code 7 is never produced. -/
inductive Cause where
  | none
  | eLen
  | ePage
  | eSeg
  | eWidth
  | eOp
  | ePageOvf
deriving DecidableEq, Repr

/-- Where the device's receiver stands in a payload (30_encoding.md R97). -/
inductive RxMode where
  /-- The next byte is a control byte. -/
  | control
  /-- The next byte is a command, and a control byte follows it. -/
  | oneCommand
  /-- Every further byte is a command. -/
  | commands
  /-- Every further byte is pixel data. -/
  | data
deriving DecidableEq, Repr

/-- The direction written with the device address (R33): FBRP only ever writes. -/
inductive Direction where
  | write
  | read
deriving DecidableEq, Repr

/-- A call on TX with what the transport returned for it (10_state.md R33, 30_encoding.md R96). -/
inductive TxCall where
  | begin (handle : Nat)
  | address (handle : Nat) (addr : BitVec 7) (dir : Direction)
  | bytes (handle : Nat) (payload : List Byte)
  | finish (handle : Nat) (status : Status)
deriving DecidableEq, Repr

/-- Which call an open transaction makes next (R96). -/
inductive TxStage where
  | address
  | bytes
  | finish
deriving DecidableEq, Repr

/-- A transaction that has begun and not ended (R33: at most one). -/
structure OpenTx where
  handle  : Nat
  payload : List Byte
  stage   : TxStage
deriving DecidableEq, Repr

/-- An event on RSP (10_state.md R35). -/
inductive Event where
  | ts (k : Nat) (st : Status)
  | done (code : ResultCode) (cause : Cause)
deriving DecidableEq, Repr

/-- A stimulus at an interface. `cmd` is the host's: a command word with the buffer OPB answers from while it runs
(10_state.md R31, R32). The three others stimulate a sub-unit by itself (log 9): a payload at the transaction
primitive, a byte at the device's receiver, a request at the copy primitive. -/
inductive Item where
  | cmd (w : CommandWord) (buf : List Byte)
  | frame (payload : List Byte)
  | rx (b : Byte)
  | copy (src : Byte) (srcBit : BitVec 3) (dst : Byte) (dstBit : BitVec 3)
deriving DecidableEq, Repr

/-- The position inside an operation's micro-steps: the step of the operation's rule that comes next (R28). The loop
counters are the working registers. -/
inductive Pos where
  /-- No operation. -/
  | rest
  /-- In CHECK; whether the word's reserved bits were 0 is what the latch does not keep (R93). -/
  | checking (reservedClear : Bool)
  /-- In DONE. -/
  | finishing
  /-- CONVERT (40_remap.md R136): steps 0 to 3, the byte loop's count, steps 4 to 6, the row loop's count, step 7. -/
  | cvInit | cvFetch | cvCopy | cvSeg | cvIdx | cvYield | cvOff | cvDbit | cvRow | cvEnd
  /-- FLUSH (42_reader_flush_blit.md R174, R170). -/
  | flInit | flStart | flRead | flAddr | flData | flNext | flEnd
  /-- CLEAR (44_clear.md R200). -/
  | clInit | clZero | clFrame | clNext | clEnd
  /-- BLIT (42_reader_flush_blit.md R178). -/
  | blInit | blFetch | blAddr | blData | blEnd
  /-- TEXT (43_text.md R190). -/
  | teInit | teHome | teChar | teAdvance | teAddr | teGlyph | teData | teNext | teEnd
deriving DecidableEq, Repr

/-- The registers of the remap unit (10_state.md R24). -/
structure Rmp where
  row   : BitVec 6
  idx   : BitVec 4
  sbit  : BitVec 3
  seg   : SegIdx
  page  : PageIdx
  dbit  : BitVec 3
  off   : BitVec 10
  sbyte : Byte
deriving DecidableEq, Repr

/-- The registers of the display buffer reader (R24). -/
structure Rdr where
  rpage : PageIdx
  rseg  : SegIdx
deriving DecidableEq, Repr

/-- The registers of the sequencer's operations (R24). -/
structure Seq where
  curPage : PageIdx
  cidx    : BitVec 16
  gidx    : BitVec 3
deriving DecidableEq, Repr

/-- The latch of the accepted command (R24, R31). -/
structure Latch where
  op    : BitVec 3
  page  : BitVec 8
  seg   : BitVec 8
  width : BitVec 8
  len   : BitVec 16
deriving DecidableEq, Repr

/-- The result registers (R24, R29). -/
structure Result where
  code    : ResultCode
  cause   : Cause
  anyfail : Bool
deriving DecidableEq, Repr

/-- The display device behind the transport (20_memory.md R60), its receiver's position (30_encoding.md R97), and the
model's counter of the free values it has drawn. -/
structure Device where
  gd    : Memory
  page  : PageIdx
  col   : SegIdx
  rx    : RxMode
  drawn : Nat
deriving DecidableEq, Repr

structure State where
  /-- The configuration: a parameter of the step (R38) that State carries; no step changes it. -/
  cfg     : Config
  /-- The Display Buffer (R20). -/
  db      : Memory
  rmp     : Rmp
  rdr     : Rdr
  seq     : Seq
  latch   : Latch
  res     : Result
  /-- R27. -/
  phase   : Phase
  /-- The model's own: the position inside the operation (log 13). -/
  pos     : Pos
  /-- The transaction open on TX (R33, R39). -/
  tx      : Option OpenTx
  /-- The model's own: the bytes gathered for the next data burst (log 13). -/
  burst   : List Byte
  /-- The operand buffer OPB answers from (R32). -/
  opb     : List Byte
  /-- The model's own: how many operations have ended (log 7). -/
  serial  : Nat
  /-- What is offered and not yet taken (R31, log 9). -/
  inbox   : List Item
  /-- The transport's answers still to come (R9, R12). -/
  answers : List Answer
  /-- The model's own: how many answers have been drawn (log 5). -/
  drawn   : Nat
  /-- The trace TR of the current or last operation (00_scope.md R12). -/
  tr      : List (List Byte)
  /-- The status list SL of the current or last operation (00_scope.md R12). -/
  sl      : List Status
  /-- The calls made on TX since the start (R33). -/
  calls   : List TxCall
  /-- The events delivered on RSP since the start (R35). -/
  rsp     : List Event
  dev     : Device
  /-- The model's own: the output of the copy primitive when it is run by itself (log 11). -/
  copyOut : Byte
  /-- The reset input is asserted (70_reset_and_hazards.md R240, R241). -/
  rst     : Bool
deriving DecidableEq, Repr

/-- Why the machine stops. Both are raised only in states that no run reaches, and both are safe. -/
inductive Fault where
  /-- Raised by `micro` where `phase` and `pos` name no micro-step (R27). Safe: the model stops. -/
  | lostPosition
  /-- Raised by the meanings of FA, FD and FC while another transaction is open (60_exceptions.md R224: FBRP must never
  open a second transaction before the first has ended). Safe: the model stops. -/
  | transactionOpen
deriving DecidableEq, Repr

/-- Why a step gives no meaning. All are safe: the model stops. -/
inductive Refusal where
  /-- Raised by an arm of `exec` that has no meaning yet. -/
  | notModelled (mnemonic : String)
  /-- Raised by `step` for a configuration that breaks a constraint (00_scope.md R7: refused by the model). -/
  | badConfiguration
  /-- Raised by `step` for a payload that is none of FA, FD, FC (30_encoding.md R105). -/
  | notAFrame
  /-- Raised by FD for an empty data list or more than 128 bytes (30_encoding.md R99, R105). -/
  | burstLength
  /-- Raised by `step` for a device byte that is none of the three control bytes (30_encoding.md R97). -/
  | unknownControlByte
  /-- Raised by `step` for a device command that is none of the three (20_memory.md R61: outside the scope). -/
  | unknownDeviceCommand
  /-- Raised by `step` for a command whose operation reads an operand buffer shorter than its `c_len`
  (70_reset_and_hazards.md R252; 93_implementation_defined.md U17: refuse). -/
  | shortOperandBuffer
deriving DecidableEq, Repr

/-- The device when FBRP has been reset: unknown to FBRP (R39, R242). Its page and column are free constants, no cell of
its memory is known, and no transaction is under way (log 3, 16). -/
def Device.unknown : Device where
  gd    := []
  page  := Config.freeDevPage
  col   := Config.freeDevCol
  rx    := .control
  drawn := 0

/-- The machine after reset (R39, 70_reset_and_hazards.md R240). `sbyte` and the latch are unspecified by the spec and
0 here (DESIGN CHOICE, log 8). -/
def State.reset : State where
  cfg     := Config.usual
  db      := []
  rmp     := ⟨0#6, 0#4, 7#3, 0#7, 0#3, 0#3, 0#10, 0#8⟩
  rdr     := ⟨0#3, 0#7⟩
  seq     := ⟨0#3, 0#16, 0#3⟩
  latch   := ⟨0#3, 0#8, 0#8, 0#8, 0#16⟩
  res     := ⟨.ok, .none, false⟩
  phase   := .idle
  pos     := .rest
  tx      := none
  burst   := []
  opb     := []
  serial  := 0
  inbox   := []
  answers := []
  drawn   := 0
  tr      := []
  sl      := []
  calls   := []
  rsp     := []
  dev     := Device.unknown
  copyOut := 0#8
  rst     := false

end Sys2Proof.Machine
end

