-- ==== Sys2Proof/Machine/Operands.lean ====
section
/-! DEFINITION. Where operands come from and how indices are formed: the operand buffer (20_memory.md R54), the glyph
table (R57), the copy primitive (40_remap.md R130), the index mapping (R132), and the effective addresses of R66. -/

namespace Sys2Proof.Machine

/-! ## Bytes read from outside the block -/

/-- `OPB[i]` (R54). The buffer does not change while an operation runs (R73). An index the host's real buffer does not
have answers a free byte (70_reset_and_hazards.md R252, log 7), the same one each time within an operation. -/
def State.opbByte (s : State) (i : Nat) : Byte := s.opb[i]?.getD (Config.freeOperand s.serial i)

/-- How many of `OPB[0 .. n-1]` are the newline code (43_text.md R190). -/
def State.newlines (s : State) (n : Nat) : Nat := (List.range n).countP fun i => s.opbByte i == s.cfg.nl

/-- `Glyph(c) = [Glyph(c)[0], ..., Glyph(c)[7]]` (R57, in index order). -/
def glyphBytes (c : Byte) : List Byte := (List.range 8).map fun i => Config.glyph c (BitVec.ofNat 3 i)

/-! ## The remap's pure functions -/

/-- `copy_bit(src, srcBit, dst, dstBit)` (R130), all at 8 bits. -/
def copyBit (src : Byte) (srcBit : BitVec 3) (dst : Byte) (dstBit : BitVec 3) : Byte :=
  (dst &&& ~~~(1#8 <<< dstBit.toNat)) ||| (((src >>> srcBit.toNat) &&& 1#8) <<< dstBit.toNat)

/-- A bit of the Display Buffer: page, segment, bit in the cell. -/
structure PixelPlace where
  page : Nat
  seg  : Nat
  dbit : Nat
deriving DecidableEq, Repr

/-- `MAP(r, j, k)` (R132): source row, byte in the row, position of the bit in processing order. -/
def mapIndex (r j k : Nat) : PixelPlace := ⟨r / 8, 8 * j + k, r % 8⟩

/-- `srcBit(k) = 7 - k` (R132). -/
def srcBitOf (k : Nat) : Nat := 7 - k

/-! ## Effective addresses (R66) -/

/-- Cell (p, s) of the Display Buffer, and of the device's memory, is at `128 * p + s` (R52). -/
def cellAddr (p : PageIdx) (s : SegIdx) : Nat := 128 * p.toNat + s.toNat

/-- The source byte CONVERT fetches: `off + idx` (R136 step 1). -/
def Rmp.source (r : Rmp) : Nat := r.off.toNat + r.idx.toNat

end Sys2Proof.Machine
end

