-- ==== Sys2Proof/Machine/Device.lean ====
section
/-! DEFINITION. Byte memories, and the display device behind the transport (20_memory.md R60 to R63) with its receiver
(30_encoding.md R97). -/

namespace Sys2Proof.Machine

namespace Memory

/-- The listed byte at an address. -/
def lookup : Memory → Nat → Option Byte
  | [], _ => none
  | (b, w) :: m, a => if a = b then some w else lookup m a

/-- List `v` at `a`, keeping the addresses strictly rising. -/
def put (a : Nat) (v : Byte) : Memory → Memory
  | [] => [(a, v)]
  | (b, w) :: m => if a < b then (a, v) :: (b, w) :: m else if a = b then (a, v) :: m else (b, w) :: put a v m

/-- The Display Buffer's read: an unlisted cell is 0x00, its value after reset (10_state.md R23). -/
def read (m : Memory) (a : Nat) : Byte := (m.lookup a).getD 0x00#8

/-- The Display Buffer's write: 0x00 is what an unlisted cell reads as, so writing it removes the entry. -/
def write (a : Nat) (v : Byte) (m : Memory) : Memory :=
  if v = 0x00#8 then m.filter fun c => c.1 != a else put a v m

/-- Strictly rising addresses. -/
abbrev rising (m : Memory) : Prop := m.Pairwise fun x y => x.1 < y.1

/-- The canonical form of the Display Buffer: strictly rising, 1024 cells (20_memory.md R51), no entry equal to what an
unlisted cell reads as. -/
abbrev wf (m : Memory) : Prop := m.rising ∧ ∀ c ∈ m, c.1 < 1024 ∧ c.2 ≠ 0x00#8

/-- The canonical form of the device's memory: strictly rising, 1024 cells; an unlisted cell's content is not known, so
no entry can equal it. -/
abbrev deviceWf (m : Memory) : Prop := m.rising ∧ ∀ c ∈ m, c.1 < 1024

end Memory

namespace Device

/-- `GD[q][c]`, where it is known: a cell the device has not been seen to write is unknown (R60, U7). -/
def cell? (d : Device) (q : PageIdx) (c : SegIdx) : Option Byte := d.gd.lookup (cellAddr q c)

/-- `COL_LOW_BASE | n` sets `dev_col[3:0] <- n` (R61). -/
def setColLow (n : BitVec 4) (d : Device) : Device := { d with col := d.col.extractLsb' 4 3 ++ n }

/-- `COL_HIGH_BASE | n` sets `dev_col[6:4] <- n[2:0]` (R61). -/
def setColHigh (n : BitVec 4) (d : Device) : Device :=
  { d with col := n.extractLsb' 0 3 ++ d.col.extractLsb' 0 4 }

/-- `PAGE_SEL_BASE | p` sets `dev_page <- p` (R61). -/
def setPage (p : PageIdx) (d : Device) : Device := { d with page := p }

/-- A control byte says how the bytes after it are read (R97). -/
def setRx (m : RxMode) (d : Device) : Device := { d with rx := m }

/-- After the command of a single-command group another group follows (R97). -/
def commandTaken (d : Device) : Device := if d.rx = .oneCommand then d.setRx .control else d

/-- A byte the spec gives no meaning where it stands (R61: outside the scope): the device's page, its column and every
cell of its memory become unknown. FBRP never sends one (R105). The receiver's position, on which R97 is silent there, is
kept (DESIGN CHOICE, log 15): after such a byte in the place of a control byte the next byte is read as a control byte, and
in the place of a command it is followed by what follows a command. -/
def scramble (d : Device) : Device :=
  { d with gd := [], page := Config.freePage d.drawn, col := Config.freeColumn d.drawn, drawn := d.drawn + 1 }

/-- The column after a data byte: one more, and COL_WRAP after 127 (R62, D27). -/
def nextCol (c : Config) (d : Device) : SegIdx :=
  if d.col = 127#7 then
    match c.colWrap with
    | .to w => w
    | .unspecified => Config.freeColumn d.drawn
  else d.col + 1#7

/-- `GD[dev_page][dev_col] <- v`, then the column advances; the page never changes by data (R62). -/
def writeData (c : Config) (v : Byte) (d : Device) : Device :=
  { d with
    gd := Memory.put (cellAddr d.page d.col) v d.gd
    col := d.nextCol c
    drawn := if d.col = 127#7 then d.drawn + 1 else d.drawn }

/-- A byte received as a command (R61). -/
def command (c : Config) (b : Byte) (d : Device) : Device :=
  match decodeCommand c b with
  | .instr (.setColLow n) => d.setColLow n
  | .instr (.setColHigh n) => d.setColHigh n
  | .instr (.setPage p) => d.setPage p
  | _ => d.scramble

/-- A byte received where a control byte stands (R97). -/
def control (c : Config) (b : Byte) (d : Device) : Device :=
  match decodeControl c b with
  | .instr .ctrlCmdStream => d.setRx .commands
  | .instr .ctrlCmdSingle => d.setRx .oneCommand
  | .instr .ctrlDataStream => d.setRx .data
  | _ => d.scramble

/-- One byte received (R61, R62, R97). -/
def recv (c : Config) (d : Device) (b : Byte) : Device :=
  match d.rx with
  | .control => d.control c b
  | .oneCommand => (d.command c b).commandTaken
  | .commands => (d.command c b).commandTaken
  | .data => d.writeData c b

/-- The bytes of one transaction received: a group ends with its transaction (R97), so a transaction starts, and leaves
the receiver, at a control byte. -/
def receive (c : Config) (bytes : List Byte) (d : Device) : Device :=
  ((bytes.foldl (recv c) (d.setRx .control)).setRx .control)

end Device

end Sys2Proof.Machine
end

