-- ==== Sys2Proof/Machine/Flags.lean ====
section
/-! DEFINITION. The block's status: result registers, their codes, and how a transaction's status and the end of an
operation set them (10_state.md R27, R29; 60_exceptions.md R211). FBRP has no arithmetic condition codes (R29). -/

namespace Sys2Proof

/-- `OK` is 0, `FAIL` is 1 (10_state.md R33). -/
def Status.code : Status → BitVec 1
  | .ok => 0#1
  | .fail => 1#1

namespace Machine

/-- The codes of R27. -/
def Phase.code : Phase → BitVec 2
  | .idle => 0#2
  | .check => 1#2
  | .run => 2#2
  | .done => 3#2

/-- The codes of R29. -/
def ResultCode.code : ResultCode → BitVec 2
  | .ok => 0#2
  | .xfail => 1#2
  | .errPrecond => 2#2

/-- The codes of R211. -/
def Cause.code : Cause → BitVec 3
  | .none => 0#3
  | .eLen => 1#3
  | .ePage => 2#3
  | .eSeg => 3#3
  | .eWidth => 4#3
  | .eOp => 5#3
  | .ePageOvf => 6#3

/-- `BUSY` is `phase != IDLE` (R27). -/
def State.busy (s : State) : Bool := s.phase != .idle

/-- A transaction's status sets `r_anyfail` when it is `FAIL` (R29, 41_sequencer.md R154). -/
def Result.note (r : Result) (st : Status) : Result := { r with anyfail := r.anyfail || st == .fail }

/-- At the end of an operation that ran: `XFAIL` exactly when `r_anyfail` is set, and no cause (R29). -/
def Result.finish (r : Result) : Result :=
  { r with code := if r.anyfail then .xfail else .ok, cause := .none }

/-- A rejected operation: `ERR_PRECOND` and the cause (R212). -/
def Result.reject (r : Result) (c : Cause) : Result := { r with code := .errPrecond, cause := c }

end Machine

end Sys2Proof
end

