-- ==== Sys2Proof/Machine/Ops.lean ====
section
/-! DEFINITION. The named operations every meaning is written over: Display Buffer cells, the transaction primitive
(00_scope.md R12), taking a command (10_state.md R31), rejecting it (60_exceptions.md R212), which stands in the place
of taking an exception, and ending an operation (R219), which stands in the place of the return. -/

namespace Sys2Proof.Machine

/-! ## Display Buffer cells -/

/-- `DB[p][s]` (00_scope.md R11). -/
def State.cell (s : State) (p : PageIdx) (x : SegIdx) : Byte := s.db.read (cellAddr p x)

/-- `DB[p][s] <- v` (R11). -/
def State.setCell (s : State) (p : PageIdx) (x : SegIdx) (v : Byte) : State :=
  { s with db := s.db.write (cellAddr p x) v }

/-! ## Transactions -/

/-- The transport's answer to the `k`-th transaction from now: listed, or free (R217). -/
def State.answer (s : State) (k : Nat) : Answer := s.answers[k]?.getD (Config.freeAnswer (s.drawn + k))

/-- What the device receives of a payload: all of it when the status is `OK`, else a prefix (20_memory.md R63). -/
def delivered (a : Answer) (payload : List Byte) : List Byte :=
  match a.status with
  | .ok => payload
  | .fail => payload.take a.taken

/-- `begin_transaction() -> handle` (R33). -/
def txBegin (payload : List Byte) (s : State) : State :=
  { s with
    tx := some ⟨(s.answer 0).handle, payload, .address⟩
    calls := s.calls ++ [.begin (s.answer 0).handle] }

/-- `write_address_byte(handle, DEV_ADDR, WRITE) -> ok`; the result is not inspected (30_encoding.md R96). -/
def txAddress (o : OpenTx) (s : State) : State :=
  { s with tx := some { o with stage := .bytes }, calls := s.calls ++ [.address o.handle s.cfg.devAddr .write] }

/-- `write_bytes(handle, payload) -> ok`; the result is not inspected (R96). -/
def txBytes (o : OpenTx) (s : State) : State :=
  { s with tx := some { o with stage := .finish }, calls := s.calls ++ [.bytes o.handle o.payload] }

/-- `end_transaction(handle) -> status`: the status goes to SL and to `r_anyfail`, the TS event is delivered, and the
device has received what the answer says (R12, R35, R63, R96, R216). -/
def txEnd (o : OpenTx) (s : State) : State :=
  { s with
    tx := none
    calls := s.calls ++ [.finish o.handle (s.answer 0).status]
    answers := s.answers.tail
    drawn := s.drawn + 1
    tr := s.tr ++ [o.payload]
    sl := s.sl ++ [(s.answer 0).status]
    rsp := s.rsp ++ [.ts s.sl.length (s.answer 0).status]
    res := s.res.note (s.answer 0).status
    dev := s.dev.receive s.cfg (delivered (s.answer 0) o.payload) }

/-- The open transaction's next call (R96). -/
def txCall (s : State) : State :=
  match s.tx with
  | none => s
  | some o =>
    match o.stage with
    | .address => txAddress o s
    | .bytes => txBytes o s
    | .finish => txEnd o s

/-- `Txn(payload)`: the four calls in order (R12, R96). -/
def txn (payload : List Byte) (s : State) : State := txCall (txCall (txCall (txBegin payload s)))

/-! ## Taking, rejecting and ending a command -/

/-- Taking a word: latch it, clear `r_anyfail`, go to CHECK (R31). The operation's trace and status list start empty
(R12). `reservedClear` is what CHECK will know of the reserved bits. -/
def accept (op : BitVec 3) (o : Operands) (reservedClear : Bool) (s : State) : State :=
  { s with
    latch := ⟨op, o.page, o.seg, o.width, o.len⟩
    res := { s.res with anyfail := false }
    phase := .check
    pos := .checking reservedClear
    burst := []
    tr := []
    sl := [] }

/-- Rejection: the cause recorded, nothing else done (R212). -/
def reject (c : Cause) (s : State) : State := { s with res := s.res.reject c, phase := .done, pos := .finishing }

/-- `CHECK -> RUN` with the operation's first micro-step (R28). -/
def start (p : Pos) (s : State) : State := { s with phase := .run, pos := p }

/-- The last micro-step of every operation: the result code, then DONE (R174 step 2 and its fellows). -/
def finish (s : State) : State := { s with res := s.res.finish, phase := .done, pos := .finishing }

/-- The completion event is delivered and the block is idle again (R28, R35, R219). The operation is counted. -/
def deliverDone (s : State) : State :=
  { s with rsp := s.rsp ++ [.done s.res.code s.res.cause], phase := .idle, pos := .rest, serial := s.serial + 1 }

/-- What a CHECK does with an accepted command (R212): reject it, or run it to its end. -/
def completed (check : State → Cause) (p : Pos) (run : State → State) (s : State) : State :=
  match check s with
  | .none => deliverDone (finish (run (start p s)))
  | c => deliverDone (reject c s)

/-- One host operation, from taking the word to the completion event (00_scope.md R8). While the block is busy the word
waits and nothing changes (R31, D20). -/
def operation (op : BitVec 3) (o : Operands) (check : State → Cause) (p : Pos) (run : State → State) (s : State) :
    Host.Outcome State Fault Refusal :=
  .next (if s.phase = .idle then completed check p run (accept op o true s) else s)

/-- A command word that is no operation (30_encoding.md R93): taken, then rejected with `E_OP`. -/
def rejectWord (w : CommandWord) (s : State) : State :=
  deliverDone (reject .eOp (accept w.op w.operands w.reservedClear s))

/-! ## Reset -/

/-- What the device has taken when a transaction is abandoned by reset: nothing before `write_bytes`, after it any
prefix (70_reset_and_hazards.md R241). -/
def State.abandoned (s : State) : Device :=
  match s.tx with
  | some ⟨_, payload, .finish⟩ => s.dev.receive s.cfg (payload.take (s.answer 0).taken)
  | _ => s.dev

/-- Reset (R240 to R242): every piece of FBRP's state takes its reset value, an operation under way is discarded with no
DONE, an open transaction is abandoned. What is outside the block stays: configuration, transport, device, host. -/
def blockReset (s : State) : State :=
  { State.reset with
    cfg := s.cfg
    opb := s.opb
    serial := s.serial + 1
    inbox := s.inbox
    answers := if s.tx.isSome then s.answers.tail else s.answers
    drawn := if s.tx.isSome then s.drawn + 1 else s.drawn
    calls := s.calls
    rsp := s.rsp
    dev := s.abandoned }

end Sys2Proof.Machine
end

