-- ==== Sys2Proof/Machine/Sequencer.lean ====
section
/-! DEFINITION. The address sequencer: the device commands, the control bytes, and the three transactions
(41_sequencer.md, 30_encoding.md R97 to R101). The CMD8 and CTRL8 rows never touch FBRP's own state; their meaning is
what the device does with the byte (R150 to R152, R61, R97). -/

namespace Sys2Proof.Machine

/-! ## The device's side -/

/-- SET_COL_LOW (R150, R61). -/
def execSetColLow (n : BitVec 4) (s : State) : Host.Outcome State Fault Refusal :=
  .next { s with dev := (s.dev.setColLow n).commandTaken }

/-- SET_COL_HIGH (R151, R61). -/
def execSetColHigh (n : BitVec 4) (s : State) : Host.Outcome State Fault Refusal :=
  .next { s with dev := (s.dev.setColHigh n).commandTaken }

/-- SET_PAGE (R152, R61). -/
def execSetPage (p : PageIdx) (s : State) : Host.Outcome State Fault Refusal :=
  .next { s with dev := (s.dev.setPage p).commandTaken }

/-- CTRL_CMD_STREAM (R97). -/
def execCtrlCmdStream (s : State) : Host.Outcome State Fault Refusal := .next { s with dev := s.dev.setRx .commands }

/-- CTRL_CMD_SINGLE (R97). -/
def execCtrlCmdSingle (s : State) : Host.Outcome State Fault Refusal := .next { s with dev := s.dev.setRx .oneCommand }

/-- CTRL_DATA_STREAM (R97). -/
def execCtrlDataStream (s : State) : Host.Outcome State Fault Refusal := .next { s with dev := s.dev.setRx .data }

/-! ## The transactions -/

/-- The payload of AddrSeq(p, s) (R98, R154). -/
def addrPayload (c : Config) (p : PageIdx) (s : SegIdx) : List Byte := frameFA c (p.setWidth 8) (s.setWidth 8)

/-- The payload of ClearFrame(p) (R100, R156). -/
def clearPayload (c : Config) (p : PageIdx) : List Byte := frameFC c (p.setWidth 8)

/-- AddrSeq(p, s) (R154). -/
def addrSeq (p : PageIdx) (x : SegIdx) (s : State) : State := txn (addrPayload s.cfg p x) s

/-- DataBurst of the gathered bytes (R155). -/
def dataBurst (s : State) : State := txn (frameFD s.cfg s.burst) s

/-- ClearFrame(p) (R156). -/
def clearFrame (p : PageIdx) (s : State) : State := txn (clearPayload s.cfg p) s

/-- A frame by itself is one transaction; none may be open already (60_exceptions.md R224). -/
def oneFrame (payload : List Byte) (s : State) : Host.Outcome State Fault Refusal :=
  match s.tx with
  | none => .next (txn payload s)
  | some _ => .fault .transactionOpen

/-- FA: AddrSeq(p, s) (R98, R154). -/
def execFA (p : PageIdx) (x : SegIdx) (s : State) : Host.Outcome State Fault Refusal :=
  oneFrame (addrPayload s.cfg p x) s

/-- FD: DataBurst(bytes) (R99, R155), defined for 1 to 128 bytes. -/
def execFD (bytes : List Byte) (s : State) : Host.Outcome State Fault Refusal :=
  if (Instr.fd bytes).wf then oneFrame (frameFD s.cfg bytes) s else .refused .burstLength

/-- FC: ClearFrame(p) (R100, R156). -/
def execFC (p : PageIdx) (s : State) : Host.Outcome State Fault Refusal := oneFrame (clearPayload s.cfg p) s

end Sys2Proof.Machine
end

