-- ==== Sys2Proof/Machine/Frame.lean ====
section
/-! DEFINITION. The reader, FLUSH and BLIT (42_reader_flush_blit.md), and CLEAR (44_clear.md). -/

namespace Sys2Proof.Machine

/-! ## The reader (R170) -/

/-- `Reader(p) = [DB[p][s] : s = 0 .. 127]` (R170). -/
def State.reader (s : State) (p : PageIdx) : List Byte := (List.range 128).map fun i => s.db.read (128 * p.toNat + i)

/-- The reader at the start of its row. -/
def flStart (s : State) : State := { s with rdr := { s.rdr with rseg := 0#7 }, burst := [] }

/-- The reader's micro-step: output `DB[rpage][rseg]`, `rseg <- rseg + 1` (wraps after the last, R170). -/
def flRead (s : State) : State :=
  { s with
    burst := s.burst ++ [s.cell s.rdr.rpage s.rdr.rseg]
    rdr := { s.rdr with rseg := s.rdr.rseg + 1#7 } }

/-! ## FLUSH (R174) -/

/-- Step 0. -/
def flInit (s : State) : State := { s with rdr := { s.rdr with rpage := 0#3 } }

/-- The page loop's count (wraps after the last page, R26). -/
def flNext (s : State) : State := { s with rdr := { s.rdr with rpage := s.rdr.rpage + 1#3 }, burst := [] }

/-- AddrSeq(rpage, 0): the segment offset of a flush is 0 (R172). -/
def flAddr (s : State) : State := addrSeq s.rdr.rpage 0#7 s

/-- Step 1 for one page: Burst(rpage, 0, Reader(rpage)), both transactions whatever the first answers
(41_sequencer.md R158). -/
def flushPage (s : State) : State := flNext (dataBurst (flAddr (flRead^[128] (flStart s))))

/-- The 8 pages. -/
def runFlush (s : State) : State := flushPage^[8] (flInit s)

/-- FLUSH has no precondition but the word's (R172). -/
def flushCheck (_ : State) : Cause := .none

/-- FLUSH (R172 to R175). -/
def execFlush (o : Operands) (s : State) : Host.Outcome State Fault Refusal :=
  operation 1#3 o flushCheck .flInit runFlush s

/-! ## CLEAR (R200) -/

/-- Step 0. -/
def clInit (s : State) : State := { s with rdr := { s.rdr with rpage := 0#3 } }

/-- Step 1: the page's 128 cells, whatever the bus will answer. -/
def clZero (s : State) : State :=
  (List.range 128).foldl (fun t i => t.setCell s.rdr.rpage (BitVec.ofNat 7 i) 0x00#8) s

/-- Step 2: ClearFrame(rpage). -/
def clFrame (s : State) : State := clearFrame s.rdr.rpage s

/-- The page loop's count (wraps after the last page, R26). -/
def clNext (s : State) : State := { s with rdr := { s.rdr with rpage := s.rdr.rpage + 1#3 } }

/-- Steps 1 and 2 for one page. -/
def clearPage (s : State) : State := clNext (clFrame (clZero s))

/-- The 8 pages. -/
def runClear (s : State) : State := clearPage^[8] (clInit s)

/-- CLEAR has no precondition but the word's (R200). -/
def clearCheck (_ : State) : Cause := .none

/-- CLEAR (R200, R201). -/
def execClear (o : Operands) (s : State) : Host.Outcome State Fault Refusal :=
  operation 2#3 o clearCheck .clInit runClear s

/-! ## BLIT (R178) -/

/-- Step 0. -/
def blInit (s : State) : State := { s with seq := { s.seq with cidx := 0#16 }, burst := [] }

/-- Step 1, one byte: `cidx` counts. -/
def blFetch (s : State) : State :=
  { s with
    burst := s.burst ++ [s.opbByte s.seq.cidx.toNat]
    seq := { s.seq with cidx := s.seq.cidx + 1#16 } }

/-- The addressing of step 2. The checks have made the page 0 to 7 and the segment 0 to 127 (30_encoding.md R103), so the
8-bit operands go into the frame as they are. -/
def blAddr (s : State) : State := txn (frameFA s.cfg s.latch.page s.latch.seg) s

/-- The gathered bytes are sent; the model's own list of them is emptied. -/
def blEnd (s : State) : State := { s with burst := [] }

/-- Steps 0 to 2: gather `width` bytes, then Burst(c_page, c_seg, bytes). -/
def runBlit (s : State) : State := blEnd (dataBurst (blAddr (blFetch^[s.latch.width.toNat] (blInit s))))

/-- BLIT's checks, the first failure wins (R178, R213). -/
def blitCheck (s : State) : Cause :=
  if 7 < s.latch.page.toNat then .ePage
  else if 127 < s.latch.seg.toNat then .eSeg
  else if s.latch.width.toNat = 0 ∨ 128 < s.latch.seg.toNat + s.latch.width.toNat ∨
      s.latch.len.toNat < s.latch.width.toNat then .eWidth
  else .none

/-- BLIT (R178, R179). -/
def execBlit (o : Operands) (s : State) : Host.Outcome State Fault Refusal :=
  operation 3#3 o blitCheck .blInit runBlit s

end Sys2Proof.Machine
end

