-- ==== Sys2Proof/Machine/Remap.lean ====
section
/-! DEFINITION. The remap unit: COPY_BIT and CONVERT (40_remap.md). -/

namespace Sys2Proof.Machine

/-! ## COPY_BIT -/

/-- COPY_BIT (R130): a pure function, no state read or written; its result goes to the model's field `copyOut` (log 11). -/
def execCopyBit (src : Byte) (srcBit : BitVec 3) (dst : Byte) (dstBit : BitVec 3) (s : State) :
    Host.Outcome State Fault Refusal :=
  .next { s with copyOut := copyBit src srcBit dst dstBit }

/-! ## CONVERT's micro-steps (R136) -/

/-- Step 0, with the loop counters at the first row, byte and bit. -/
def cvInit (s : State) : State :=
  { s with rmp := { s.rmp with row := 0#6, idx := 0#4, sbit := 7#3, seg := 0#7, page := 0#3, dbit := 0#3, off := 0#10 } }

/-- Step 1: fetch the source byte; the bit loop begins at bit 7. -/
def cvFetch (s : State) : State :=
  { s with rmp := { s.rmp with sbyte := s.opbByte s.rmp.source, sbit := 7#3 } }

/-- Step 2: copy one bit into the cell. -/
def cvCopy (s : State) : State :=
  s.setCell s.rmp.page s.rmp.seg
    (copyBit s.rmp.sbyte s.rmp.sbit (s.cell s.rmp.page s.rmp.seg) s.rmp.dbit)

/-- Step 3, and the bit loop's count down (`sbit` wraps after the last bit, log 12). -/
def cvSeg (s : State) : State :=
  { s with rmp := { s.rmp with seg := s.rmp.seg + 1#7, sbit := s.rmp.sbit - 1#3 } }

/-- The byte loop's count (wraps after the last byte, R26). -/
def cvIdx (s : State) : State := { s with rmp := { s.rmp with idx := s.rmp.idx + 1#4 } }

/-- Step 5. -/
def cvOff (s : State) : State := { s with rmp := { s.rmp with off := s.rmp.off + 16#10, seg := 0#7 } }

/-- Step 6: the wrap of `dbit` moves to the next page (R26: 7 + 1 is compared with 8 before the wrap). -/
def cvDbit (s : State) : State :=
  { s with rmp := { s.rmp with
      dbit := s.rmp.dbit + 1#3
      page := if s.rmp.dbit = 7#3 then s.rmp.page + 1#3 else s.rmp.page } }

/-- The row loop's count (wraps after the last row, R26). -/
def cvRow (s : State) : State := { s with rmp := { s.rmp with row := s.rmp.row + 1#6 } }

/-- With step 7: the last source byte is given up, since after DONE no copy of an operand byte is held (R32). What `sbyte`
then holds no rule says: a free value, the same for every bitmap (DESIGN CHOICE, log 27). -/
def cvEnd (s : State) : State := { s with rmp := { s.rmp with sbyte := Config.freeSourceByte s.serial } }

/-! ## CONVERT's loop nest -/

/-- Steps 2 and 3, one bit. -/
def cvBit (s : State) : State := cvSeg (cvCopy s)

/-- Step 1 and the eight bits of a source byte. -/
def cvByte (s : State) : State := cvIdx (cvBit^[8] (cvFetch s))

/-- The sixteen bytes of a row, the yield of step 4 (a no-op, R262), steps 5 and 6. -/
def cvWholeRow (s : State) : State := cvRow (cvDbit (cvOff (cvByte^[16] s)))

/-- The 64 rows, and the source byte given up. -/
def runConvert (s : State) : State := cvEnd (cvWholeRow^[64] (cvInit s))

/-- CONVERT's check (R134): the Source Bitmap has exactly 1024 bytes. -/
def convertCheck (s : State) : Cause := if s.latch.len = 1024#16 then .none else .eLen

/-- CONVERT (R134 to R138). -/
def execConvert (o : Operands) (s : State) : Host.Outcome State Fault Refusal :=
  operation 0#3 o convertCheck .cvInit runConvert s

end Sys2Proof.Machine
end

