-- ==== Sys2Proof/Machine/Text.lean ====
section
/-! DEFINITION. TEXT (43_text.md). -/

namespace Sys2Proof.Machine

/-- Step 0. -/
def teInit (s : State) : State := { s with seq := ⟨0#3, 0#16, 0#3⟩, burst := [] }

/-- The addressing of steps 1 and 4: page `cur_page`, column 0. -/
def teAddr (s : State) : State := addrSeq s.seq.curPage 0#7 s

/-- Step 2: the character at `cidx`. -/
def State.char (s : State) : Byte := s.opbByte s.seq.cidx.toNat

/-- Step 3. -/
def teAdvance (s : State) : State := { s with seq := { s.seq with curPage := s.seq.curPage + 1#3 } }

/-- Step 5, one of the eight glyph reads (`gidx` wraps after the last, R26). -/
def teGlyph (s : State) : State :=
  { s with
    burst := s.burst ++ [Config.glyph s.char s.seq.gidx]
    seq := { s.seq with gidx := s.seq.gidx + 1#3 } }

/-- The character loop's count; the glyph bytes are sent. -/
def teNext (s : State) : State := { s with seq := { s.seq with cidx := s.seq.cidx + 1#16 }, burst := [] }

/-- Steps 2 to 6 for one character (R190). -/
def textChar (s : State) : State :=
  teNext (if s.char = s.cfg.nl then teAddr (teAdvance s) else dataBurst (teGlyph^[8] s))

/-- The initial cursor reset, then `c_len` characters. -/
def runText (s : State) : State := textChar^[s.latch.len.toNat] (teAddr (teInit s))

/-- TEXT's check: at most 7 newline codes (R190, R194). -/
def textCheck (s : State) : Cause := if 7 < s.newlines s.latch.len.toNat then .ePageOvf else .none

/-- TEXT (R190, R191). -/
def execText (o : Operands) (s : State) : Host.Outcome State Fault Refusal :=
  operation 4#3 o textCheck .teInit runText s

end Sys2Proof.Machine
end

