-- ==== Sys2Proof/Machine/Dispatch.lean ====
section
/-! DEFINITION. The meaning of every instruction, one arm per constructor. -/

namespace Sys2Proof.Machine

def exec (i : Instr) (s : State) : Host.Outcome State Fault Refusal :=
  match i with
  | .convert o => Sys2Proof.Machine.execConvert o s
  | .flush o => Sys2Proof.Machine.execFlush o s
  | .clear o => Sys2Proof.Machine.execClear o s
  | .blit o => Sys2Proof.Machine.execBlit o s
  | .text o => Sys2Proof.Machine.execText o s
  | .setColLow n => Sys2Proof.Machine.execSetColLow n s
  | .setColHigh n => Sys2Proof.Machine.execSetColHigh n s
  | .setPage p => Sys2Proof.Machine.execSetPage p s
  | .ctrlCmdStream => Sys2Proof.Machine.execCtrlCmdStream s
  | .ctrlCmdSingle => Sys2Proof.Machine.execCtrlCmdSingle s
  | .ctrlDataStream => Sys2Proof.Machine.execCtrlDataStream s
  | .fa p x => Sys2Proof.Machine.execFA p x s
  | .fd bytes => Sys2Proof.Machine.execFD bytes s
  | .fc p => Sys2Proof.Machine.execFC p s
  | .copyBit src srcBit dst dstBit => Sys2Proof.Machine.execCopyBit src srcBit dst dstBit s

end Sys2Proof.Machine
end

