-- ==== Sys2Proof/Machine/Fetch.lean ====
section
/-! DEFINITION. What an idle block takes next. FBRP fetches no instructions (10_state.md R27): the host offers command
words (R31). The model's queue `inbox` also carries stimuli for the sub-units (log 9). -/

namespace Sys2Proof.Machine

/-- What is at the head of the queue. -/
inductive Fetched where
  /-- Nothing is offered. -/
  | nothing
  /-- The device took a byte of pixel data. -/
  | deviceData (s : State)
  /-- An encoding to decode, and the state with it taken. -/
  | item (x : Encoded) (s : State)

/-- The head of the queue. What a byte at the device's receiver is depends on the receiver's position
(30_encoding.md R97); a data byte is no instruction (20_memory.md R62). -/
def fetch (s : State) : Fetched :=
  match s.inbox with
  | [] => .nothing
  | .cmd w buf :: rest => .item (.word w) { s with inbox := rest, opb := buf }
  | .frame payload :: rest => .item (.payload payload) { s with inbox := rest }
  | .rx b :: rest =>
    match s.dev.rx with
    | .control => .item (.control b) { s with inbox := rest }
    | .oneCommand => .item (.command b) { s with inbox := rest }
    | .commands => .item (.command b) { s with inbox := rest }
    | .data => .deviceData { s with inbox := rest, dev := s.dev.writeData s.cfg b }
  | .copy src srcBit dst dstBit :: rest => .item (.bitCopy src srcBit dst dstBit) { s with inbox := rest }

/-- What is done with an encoding that is no instruction: a command word is rejected with `E_OP` (30_encoding.md R93);
the others are refused by name. -/
def illegal (x : Encoded) (s : State) : Host.Outcome State Fault Refusal :=
  match x with
  | .word w => .next (rejectWord w s)
  | .payload _ => .refused .notAFrame
  | .control _ => .refused .unknownControlByte
  | .command _ => .refused .unknownDeviceCommand
  | .bitCopy _ _ _ _ => .refused .notAFrame

/-- Taking a command word and no more: `IDLE -> CHECK` (10_state.md R31). -/
def acceptWord (w : CommandWord) (s : State) : State := accept w.op w.operands w.reservedClear s

/-- Whether the operation of a command word reads its operand buffer (10_state.md R32): CONVERT and BLIT where their checks
pass, since a command rejected for its fields does nothing (60_exceptions.md R212); TEXT always, since its check counts the
newlines. FLUSH and CLEAR have no buffer (20_memory.md R54). -/
def readsOperand (w : CommandWord) (s : State) : Bool :=
  w.reservedClear &&
    (if w.op = 0#3 then decide (convertCheck (acceptWord w s) = .none)
    else if w.op = 3#3 then decide (blitCheck (acceptWord w s) = .none)
    else decide (w.op = 4#3))

/-- Whether the host offers an operation on a buffer shorter than the length it gives: 70_reset_and_hazards.md R252 says it
must not, and 93_implementation_defined.md U17 has the model refuse the run (log 7). -/
def State.shortOperand (s : State) : Bool :=
  match s.inbox with
  | .cmd w buf :: _ => readsOperand w s && decide (buf.length < w.operands.len.toNat)
  | _ => false

/-- The operand buffer a command word is presented with: the one OPB already answers from, and behind it, up to `c_len`,
the bytes the host's memory holds there (R252), so that OPB answers as before. -/
def Encoded.buffer (x : Encoded) (s : State) : List Byte :=
  match x with
  | .word w =>
    s.opb ++ (List.range' s.opb.length (w.operands.len.toNat - s.opb.length)).map (Config.freeOperand s.serial)
  | .payload _ => s.opb
  | .control _ => s.opb
  | .command _ => s.opb
  | .bitCopy _ _ _ _ => s.opb

/-- The stimulus that presents an encoding. -/
def Encoded.toItem (x : Encoded) (s : State) : Item :=
  match x with
  | .word w => .cmd w (Encoded.buffer x s)
  | .payload payload => .frame payload
  | .control b => .rx b
  | .command b => .rx b
  | .bitCopy src srcBit dst dstBit => .copy src srcBit dst dstBit

/-- Where the device's receiver must stand for a device byte to be read as the encoding says (30_encoding.md R97). -/
def Encoded.rxMode (x : Encoded) (s : State) : RxMode :=
  match x with
  | .control _ => .control
  | .command _ => .commands
  | .word _ => s.dev.rx
  | .payload _ => s.dev.rx
  | .bitCopy _ _ _ _ => s.dev.rx

/-- The state in which the next step takes exactly this encoding: the block idle, no reset asserted, the stimulus at the
head of the queue, the receiver where the byte belongs. -/
def State.offering (s : State) (x : Encoded) : State :=
  { s with
    phase := .idle
    pos := .rest
    tx := none
    rst := false
    inbox := Encoded.toItem x s :: s.inbox
    dev := s.dev.setRx (Encoded.rxMode x s) }

end Sys2Proof.Machine
end

