-- ==== Sys2Proof/Machine/Micro.lean ====
section
/-! DEFINITION. The controller one micro-step at a time: CHECK, the loop nest of the running operation, DONE
(10_state.md R27, R28). The micro-steps are the same operations the meanings are made of; what is added here is the
order in which they follow each other. -/

namespace Sys2Proof.Machine

/-- The checks of CHECK in the order of R213: the word first, then the operation's own. -/
def precondition (reservedClear : Bool) (s : State) : Cause :=
  if reservedClear then
    if s.latch.op = 0#3 then convertCheck s
    else if s.latch.op = 1#3 then flushCheck s
    else if s.latch.op = 2#3 then clearCheck s
    else if s.latch.op = 3#3 then blitCheck s
    else if s.latch.op = 4#3 then textCheck s
    else .eOp
  else .eOp

/-- The first micro-step of an operation. -/
def firstPos (op : BitVec 3) : Pos :=
  if op = 0#3 then .cvInit
  else if op = 1#3 then .flInit
  else if op = 2#3 then .clInit
  else if op = 3#3 then .blInit
  else .teInit

/-- `CHECK -> DONE` or `CHECK -> RUN` (R28, R212). -/
def checkStep (reservedClear : Bool) (s : State) : State :=
  match precondition reservedClear s with
  | .none => start (firstPos s.latch.op) s
  | c => reject c s

/-- The same state at another position. -/
def State.goto (p : Pos) (s : State) : State := { s with pos := p }

/-- One micro-step of a running operation with no transaction open. A micro-step that needs a transaction begins it; its
other calls follow before the next position is taken. -/
def runStep (s : State) : Host.Outcome State Fault Refusal :=
  match s.pos with
  | .cvInit => .next ((cvInit s).goto .cvFetch)
  | .cvFetch => .next ((cvFetch s).goto .cvCopy)
  | .cvCopy => .next ((cvCopy s).goto .cvSeg)
  | .cvSeg => .next ((cvSeg s).goto (if s.rmp.sbit = 0#3 then .cvIdx else .cvCopy))
  | .cvIdx => .next ((cvIdx s).goto (if s.rmp.idx = 15#4 then .cvYield else .cvFetch))
  | .cvYield => .next (s.goto .cvOff)
  | .cvOff => .next ((cvOff s).goto .cvDbit)
  | .cvDbit => .next ((cvDbit s).goto .cvRow)
  | .cvRow => .next ((cvRow s).goto (if s.rmp.row = 63#6 then .cvEnd else .cvFetch))
  | .cvEnd => .next (finish (cvEnd s))
  | .flInit => .next ((flInit s).goto .flStart)
  | .flStart => .next ((flStart s).goto .flRead)
  | .flRead => .next ((flRead s).goto (if s.rdr.rseg = 127#7 then .flAddr else .flRead))
  | .flAddr => .next ((txBegin (addrPayload s.cfg s.rdr.rpage 0#7) s).goto .flData)
  | .flData => .next ((txBegin (frameFD s.cfg s.burst) s).goto .flNext)
  | .flNext => .next ((flNext s).goto (if s.rdr.rpage = 7#3 then .flEnd else .flStart))
  | .flEnd => .next (finish s)
  | .clInit => .next ((clInit s).goto .clZero)
  | .clZero => .next ((clZero s).goto .clFrame)
  | .clFrame => .next ((txBegin (clearPayload s.cfg s.rdr.rpage) s).goto .clNext)
  | .clNext => .next ((clNext s).goto (if s.rdr.rpage = 7#3 then .clEnd else .clZero))
  | .clEnd => .next (finish s)
  | .blInit => .next ((blInit s).goto .blFetch)
  | .blFetch =>
    .next ((blFetch s).goto (if s.seq.cidx + 1#16 = s.latch.width.setWidth 16 then .blAddr else .blFetch))
  | .blAddr => .next ((txBegin (frameFA s.cfg s.latch.page s.latch.seg) s).goto .blData)
  | .blData => .next ((txBegin (frameFD s.cfg s.burst) s).goto .blEnd)
  | .blEnd => .next (finish (blEnd s))
  | .teInit => .next ((teInit s).goto .teHome)
  | .teHome => .next ((txBegin (addrPayload s.cfg s.seq.curPage 0#7) s).goto .teChar)
  | .teChar =>
    .next (s.goto (if s.seq.cidx = s.latch.len then .teEnd
      else if s.char = s.cfg.nl then .teAdvance else .teGlyph))
  | .teAdvance => .next ((teAdvance s).goto .teAddr)
  | .teAddr => .next ((txBegin (addrPayload s.cfg s.seq.curPage 0#7) s).goto .teNext)
  | .teGlyph => .next ((teGlyph s).goto (if s.seq.gidx = 7#3 then .teData else .teGlyph))
  | .teData => .next ((txBegin (frameFD s.cfg s.burst) s).goto .teNext)
  | .teNext => .next ((teNext s).goto .teChar)
  | .teEnd => .next (finish s)
  | .rest => .fault .lostPosition
  | .checking _ => .fault .lostPosition
  | .finishing => .fault .lostPosition

/-- One micro-step of a busy block. -/
def micro (s : State) : Host.Outcome State Fault Refusal :=
  match s.phase with
  | .check =>
    match s.pos with
    | .checking reservedClear => .next (checkStep reservedClear s)
    | _ => .fault .lostPosition
  | .run =>
    match s.tx with
    | some _ => .next (txCall s)
    | none => runStep s
  | .done =>
    match s.pos with
    | .finishing => .next (deliverDone s)
    | _ => .fault .lostPosition
  | .idle => .fault .lostPosition

end Sys2Proof.Machine
end

