-- ==== Sys2Proof/Machine/Step.lean ====
section
/-! DEFINITION. One step of the machine. The unit is one host operation (00_scope.md R8): an idle block takes what is
offered and runs it to its completion event; a busy block (a state between two micro-steps) makes its next micro-step. -/

namespace Sys2Proof.Machine

/-- An idle block: nothing offered, it holds its state (60_exceptions.md R226); something offered, it is taken. -/
def idleStep (s : State) : Host.Outcome State Fault Refusal :=
  match fetch s with
  | .nothing => .next s
  | .deviceData t => .next t
  | .item x t =>
    match decode s.cfg x with
    | .instr i => exec i t
    | .rejected _ => illegal x t

/-- Reset is served first (log 14); then what is offered, but for a command on too short a buffer (U17, log 7); a busy block
goes on. -/
def step (s : State) : Host.Outcome State Fault Refusal :=
  if s.cfg.wf then
    if s.rst then .next (blockReset s)
    else if s.phase = .idle then (if s.shortOperand then .refused .shortOperandBuffer else idleStep s)
    else micro s
  else .refused .badConfiguration

/-- `s` with the instruction of an opcode-table row where the next step takes it (log 10, 20). -/
def State.withFetchWord (s : State) (nbits w : Nat) : State := s.offering (tableEncoded nbits w)

end Sys2Proof.Machine
end

