-- ==== Sys2Proof/Machine/Tick.lean ====
section
/-! DEFINITION. The fine-grained machine: like `step`, but an idle block that is offered a command word only takes it
(`IDLE -> CHECK`, 10_state.md R31), and the operation runs in the micro-steps that follow (00_scope.md R8: each operation
is given as a function and as micro-steps, and the two agree). -/

namespace Sys2Proof.Machine

/-- One micro-step of the whole machine. -/
def tick (s : State) : Host.Outcome State Fault Refusal :=
  if s.rst = false ∧ s.cfg.wf = true ∧ s.phase = .idle ∧ s.shortOperand = false then
    match s.inbox with
    | .cmd w buf :: rest => .next (acceptWord w { s with inbox := rest, opb := buf })
    | _ => step s
  else step s

/-- `k` micro-steps, stopping at the first fault or refusal. -/
def ticks : Nat → State → Host.Outcome State Fault Refusal
  | 0, s => .next s
  | k + 1, s =>
    match tick s with
    | .next t => ticks k t
    | .fault r => .fault r
    | .refused r => .refused r

end Sys2Proof.Machine
end

