-- ==== Sys2Proof/Safety.lean ====
section
/-! DEFINITION. What claims are stated in: the invariant of the machine, the relations CONVERT's registers stand in at
each micro-step, and what an operation leaves when it has ended or has been rejected. -/

namespace Sys2Proof.Machine

/-! ## The invariant -/

/-- The operation a position belongs to (10_state.md R27: the position is `phase` together with `c_op`). -/
def Pos.operation? : Pos → Option (BitVec 3)
  | .cvInit => some 0#3
  | .cvFetch => some 0#3
  | .cvCopy => some 0#3
  | .cvSeg => some 0#3
  | .cvIdx => some 0#3
  | .cvYield => some 0#3
  | .cvOff => some 0#3
  | .cvDbit => some 0#3
  | .cvRow => some 0#3
  | .cvEnd => some 0#3
  | .flInit => some 1#3
  | .flStart => some 1#3
  | .flRead => some 1#3
  | .flAddr => some 1#3
  | .flData => some 1#3
  | .flNext => some 1#3
  | .flEnd => some 1#3
  | .clInit => some 2#3
  | .clZero => some 2#3
  | .clFrame => some 2#3
  | .clNext => some 2#3
  | .clEnd => some 2#3
  | .blInit => some 3#3
  | .blFetch => some 3#3
  | .blAddr => some 3#3
  | .blData => some 3#3
  | .blEnd => some 3#3
  | .teInit => some 4#3
  | .teHome => some 4#3
  | .teChar => some 4#3
  | .teAdvance => some 4#3
  | .teAddr => some 4#3
  | .teGlyph => some 4#3
  | .teData => some 4#3
  | .teNext => some 4#3
  | .teEnd => some 4#3
  | .rest => none
  | .checking _ => none
  | .finishing => none

/-- CHECK is a position of its own. -/
def Pos.isChecking : Pos → Bool
  | .checking _ => true
  | _ => false

/-- `phase` and the position agree, and a transaction is open only in RUN (10_state.md R27, R39). -/
def State.positioned (s : State) : Bool :=
  match s.phase with
  | .idle => s.pos == .rest && s.tx.isNone
  | .check => s.pos.isChecking && s.tx.isNone
  | .run => s.pos.operation? == some s.latch.op
  | .done => s.pos == .finishing && s.tx.isNone

/-- The invariant every step keeps. -/
structure State.Inv (s : State) : Prop where
  /-- The Display Buffer is in canonical form: 1024 cells, each with one value (20_memory.md R51). -/
  bufferWf : s.db.wf
  /-- So is the device's memory (20_memory.md R60). -/
  deviceMemoryWf : s.dev.gd.deviceWf
  /-- The control position is one (R27). -/
  isPositioned : s.positioned = true
  /-- One status per transaction of the trace (00_scope.md R12). -/
  traceLength : s.tr.length = s.sl.length
  /-- `r_anyfail` is 1 exactly when some transaction of the current or last operation answered `FAIL` (R24, R29). -/
  anyfailIff : s.res.anyfail = s.sl.contains .fail
  /-- `r_cause` is 0 unless `r_code = ERR_PRECOND`, when it is a cause (R29). -/
  causeIff : s.res.code = .errPrecond ↔ s.res.cause ≠ .none

/-- The relations in which CONVERT's registers stand at each of its micro-steps (40_remap.md R136). At step 2, with
`k = 7 - sbit`, the destination is `MAP(row, idx, k)` and the source byte is `OPB[16*row + idx]`. -/
def State.remapPlaced (s : State) : Prop :=
  s.phase = .run →
    match s.pos with
    | .cvFetch =>
      s.rmp.off.toNat = 16 * s.rmp.row.toNat ∧ s.rmp.page.toNat = s.rmp.row.toNat / 8 ∧
      s.rmp.dbit.toNat = s.rmp.row.toNat % 8 ∧ s.rmp.seg.toNat = 8 * s.rmp.idx.toNat
    | .cvCopy =>
      s.rmp.off.toNat = 16 * s.rmp.row.toNat ∧ s.rmp.sbyte = s.opbByte (16 * s.rmp.row.toNat + s.rmp.idx.toNat) ∧
      mapIndex s.rmp.row.toNat s.rmp.idx.toNat (7 - s.rmp.sbit.toNat) =
        ⟨s.rmp.page.toNat, s.rmp.seg.toNat, s.rmp.dbit.toNat⟩
    | .cvSeg =>
      s.rmp.off.toNat = 16 * s.rmp.row.toNat ∧ s.rmp.sbyte = s.opbByte (16 * s.rmp.row.toNat + s.rmp.idx.toNat) ∧
      mapIndex s.rmp.row.toNat s.rmp.idx.toNat (7 - s.rmp.sbit.toNat) =
        ⟨s.rmp.page.toNat, s.rmp.seg.toNat, s.rmp.dbit.toNat⟩
    | .cvIdx =>
      s.rmp.off.toNat = 16 * s.rmp.row.toNat ∧ s.rmp.page.toNat = s.rmp.row.toNat / 8 ∧
      s.rmp.dbit.toNat = s.rmp.row.toNat % 8 ∧ s.rmp.seg.toNat = 8 * (s.rmp.idx.toNat + 1) % 128
    | .cvYield =>
      s.rmp.off.toNat = 16 * s.rmp.row.toNat ∧ s.rmp.page.toNat = s.rmp.row.toNat / 8 ∧
      s.rmp.dbit.toNat = s.rmp.row.toNat % 8 ∧ s.rmp.idx = 0#4
    | .cvOff =>
      s.rmp.off.toNat = 16 * s.rmp.row.toNat ∧ s.rmp.page.toNat = s.rmp.row.toNat / 8 ∧
      s.rmp.dbit.toNat = s.rmp.row.toNat % 8 ∧ s.rmp.idx = 0#4
    | .cvDbit =>
      s.rmp.off.toNat = 16 * (s.rmp.row.toNat + 1) % 1024 ∧ s.rmp.page.toNat = s.rmp.row.toNat / 8 ∧
      s.rmp.dbit.toNat = s.rmp.row.toNat % 8 ∧ s.rmp.idx = 0#4 ∧ s.rmp.seg = 0#7
    | .cvRow =>
      s.rmp.off.toNat = 16 * (s.rmp.row.toNat + 1) % 1024 ∧ s.rmp.page.toNat = (s.rmp.row.toNat + 1) / 8 % 8 ∧
      s.rmp.dbit.toNat = (s.rmp.row.toNat + 1) % 8 ∧ s.rmp.idx = 0#4 ∧ s.rmp.seg = 0#7
    | .cvEnd =>
      s.rmp.row = 0#6 ∧ s.rmp.idx = 0#4 ∧ s.rmp.seg = 0#7 ∧ s.rmp.page = 0#3 ∧ s.rmp.dbit = 0#3 ∧ s.rmp.off = 0#10
    | _ => True

/-! ## What an operation leaves -/

/-- The statuses the transport will answer to the next `n` transactions. -/
def State.statuses (s : State) (n : Nat) : List Status := (List.range n).map fun k => (s.answer k).status

/-- The result registers after an operation that ran, by its statuses (10_state.md R29). -/
def resultOf (statuses : List Status) : Result :=
  if .fail ∈ statuses then ⟨.xfail, .none, true⟩ else ⟨.ok, .none, false⟩

/-- The four calls of a transaction with the answer it gets (30_encoding.md R96). -/
def callsOf (c : Config) (a : Answer) (payload : List Byte) : List TxCall :=
  [.begin a.handle, .address a.handle c.devAddr .write, .bytes a.handle payload, .finish a.handle a.status]

/-- The calls of a run of transactions, each with its answer. -/
def State.callsFor (s : State) (payloads : List (List Byte)) : List TxCall :=
  payloads.zipIdx.flatMap fun b => callsOf s.cfg (s.answer b.2) b.1

/-- The device after a run of transactions: each delivers what its answer says (20_memory.md R63). -/
def State.deviceAfter (s : State) (payloads : List (List Byte)) : Device :=
  payloads.zipIdx.foldl (fun d b => d.receive s.cfg (delivered (s.answer b.2) b.1)) s.dev

/-- The operation `op`, taken with operands `o` in the state `s`, has run to its end and left `t`, having made exactly
the transactions `payloads` (00_scope.md R8, R12; 10_state.md R29, R31, R35; 60_exceptions.md R216, R219). What it does
to the Display Buffer and the working registers is said beside it. The model's own choices in it: `pos`, `burst`, `serial`
(log 13), the answers drawn (log 5), the span of the records (log 24). -/
structure Ended (op : BitVec 3) (o : Operands) (payloads : List (List Byte)) (s t : State) : Prop where
  idle     : t.phase = .idle ∧ t.pos = .rest
  closed   : s.tx = none → t.tx = none
  latch    : t.latch = ⟨op, o.page, o.seg, o.width, o.len⟩
  trace    : t.tr = payloads
  statuses : t.sl = s.statuses payloads.length
  result   : t.res = resultOf (s.statuses payloads.length)
  events   : t.rsp = s.rsp ++ (List.range payloads.length).map (fun k => Event.ts k (s.answer k).status) ++
    [.done t.res.code t.res.cause]
  calls    : t.calls = s.calls ++ s.callsFor payloads
  device   : t.dev = s.deviceAfter payloads
  answers  : t.answers = s.answers.drop payloads.length ∧ t.drawn = s.drawn + payloads.length
  outside  : t.cfg = s.cfg ∧ t.opb = s.opb ∧ t.inbox = s.inbox ∧ t.copyOut = s.copyOut ∧ t.rst = s.rst
  records  : t.serial = s.serial + 1 ∧ t.burst = []

/-- The state a rejection leaves (60_exceptions.md R212): the latch and the result registers, the completion event, and
the model's records of the operation (`pos`, `burst`, `serial`, log 13; `tr` and `sl` emptied, log 24); everything else as
before the command. -/
def State.rejectedWith (s : State) (op : BitVec 3) (o : Operands) (c : Cause) : State :=
  { s with
    latch := ⟨op, o.page, o.seg, o.width, o.len⟩
    res := ⟨.errPrecond, c, false⟩
    rsp := s.rsp ++ [.done .errPrecond c]
    phase := .idle
    pos := .rest
    tr := []
    sl := []
    burst := []
    serial := s.serial + 1 }

/-! ## Values the statements name -/

/-- Pixel (x, y) of a Source Bitmap (20_memory.md R53). -/
def State.sourcePixel (s : State) (x y : Nat) : Bool := (s.opbByte (16 * y + x / 8)).getLsbD (7 - x % 8)

/-- Pixel (x, y) of the Display Buffer (10_state.md R21). -/
def State.bufferPixel (s : State) (x y : Nat) : Bool := (s.db.read (128 * (y / 8) + x)).getLsbD (y % 8)

/-- The 16 payloads of a flush (42_reader_flush_blit.md R175). -/
def State.flushTrace (s : State) : List (List Byte) :=
  (List.range 8).flatMap fun p =>
    [addrPayload s.cfg (BitVec.ofNat 3 p) 0#7, frameFD s.cfg (s.reader (BitVec.ofNat 3 p))]

/-- The 8 payloads of a clear (44_clear.md R201). -/
def clearTrace (c : Config) : List (List Byte) := (List.range 8).map fun p => clearPayload c (BitVec.ofNat 3 p)

/-- The payload of character `i` of a text (43_text.md R191): an addressing sequence for a newline, on the page its
number gives, else the burst of the character's glyph. -/
def State.charPayload (s : State) (i : Nat) : List Byte :=
  if s.opbByte i = s.cfg.nl then addrPayload s.cfg (BitVec.ofNat 3 (s.newlines (i + 1))) 0#7
  else frameFD s.cfg (glyphBytes (s.opbByte i))

/-- The `1 + n` payloads of a text of `n` characters (43_text.md R191). -/
def State.textTrace (s : State) (n : Nat) : List (List Byte) :=
  addrPayload s.cfg 0#3 0#7 :: (List.range n).map s.charPayload

/-- The payloads of a blit (42_reader_flush_blit.md R178). -/
def State.blitTrace (s : State) (o : Operands) : List (List Byte) :=
  [frameFA s.cfg o.page o.seg, frameFD s.cfg ((List.range o.width.toNat).map s.opbByte)]

end Sys2Proof.Machine
end

