-- ==== Sys2Proof/Certificates/Slice0/Obligations.lean ====
section
/-! DEFINITION. The statements for the provers, from the numbered rules of spec/. A statement about a free value
(Config.freeAnswer, freeOperand, glyph, freeDevPage, ...) holds whatever the value is. -/

open Sys2Proof Sys2Proof.Machine

/-! ## Encoding -/

/-- R90 to R103: under every configuration that meets R7, decoding the encoding of a well-formed instruction gives the
instruction back, with every operand. -/
def Obligations.DecodeInvertsEncode : Prop :=
  ∀ (c : Config) (i : Instr), c.wf = true → i.wf = true → decode c (encode c i) = .instr i

/-- R90 to R103: what decodes is well formed, and encoding it gives back the word, byte or payload it was decoded from:
no bit of an encoding is dropped. -/
def Obligations.EncodeInvertsDecode : Prop :=
  ∀ (c : Config) (x : Encoded) (i : Instr), c.wf = true → decode c x = .instr i → i.wf = true ∧ encode c i = x

/-- Words, bytes and payloads written out from 95_test_vectors.md V4, V5 and V10 decode to what they stand for, under the
usual constants those vectors are printed with. -/
def Obligations.PrintedEncodingsDecode : Prop :=
  decode Config.usual (.word 0x0000040000000000#64) = .instr (.convert ⟨0, 0, 0, 1024⟩) ∧
  decode Config.usual (.word 0x000000000000FF01#64) = .instr (.flush ⟨0xFF, 0, 0, 0⟩) ∧
  decode Config.usual (.word 0x0000000000000002#64) = .instr (.clear ⟨0, 0, 0, 0⟩) ∧
  decode Config.usual (.word 0x0000000404250303#64) = .instr (.blit ⟨3, 37, 4, 4⟩) ∧
  decode Config.usual (.word 0x0000000300000004#64) = .instr (.text ⟨0, 0, 0, 3⟩) ∧
  decode Config.usual (.word 0x0000000000000005#64) = .rejected .reservedOp ∧
  decode Config.usual (.word 0x0000000000000009#64) = .rejected .reservedBits ∧
  decode Config.usual (.command 0x05#8) = .instr (.setColLow 5) ∧
  decode Config.usual (.command 0x17#8) = .instr (.setColHigh 7) ∧
  decode Config.usual (.command 0xB3#8) = .instr (.setPage 3) ∧
  decode Config.usual (.control 0x80#8) = .instr .ctrlCmdSingle ∧
  decode Config.usual (.payload [0x00#8, 0x05#8, 0x12#8, 0xB3#8]) = .instr (.fa 3 37) ∧
  decode Config.usual (.payload [0x40#8, 0xDE#8, 0xAD#8]) = .instr (.fd [0xDE#8, 0xAD#8]) ∧
  decode Config.usual (.payload ([0x80#8, 0xB2#8, 0x40#8] ++ List.replicate 128 0x00#8)) = .instr (.fc 2)

/-- R7: `Config.wf` is its four constraints, (d) with the three sets of command bytes written out; the usual values meet
them; a configuration that breaks one is refused. What they are for: OR, addition and concatenation give the same column
byte, the OR with a page index loses no bit of either side, and a command byte tells its command. -/
def Obligations.ConfigurationConstraints : Prop :=
  (∀ c : Config, c.wf = true ↔
    (c.ctrlCmdStream ≠ c.ctrlCmdSingle ∧ c.ctrlCmdStream ≠ c.ctrlDataStream ∧ c.ctrlCmdSingle ≠ c.ctrlDataStream) ∧
    (c.colLowBase &&& 0x0F#8 = 0 ∧ c.colHighBase &&& 0x0F#8 = 0) ∧
    c.pageSelBase &&& 0x07#8 = 0 ∧
    (∀ n m : BitVec 4, c.colLowBase ||| n.setWidth 8 ≠ c.colHighBase ||| m.setWidth 8) ∧
    (∀ (n : BitVec 4) (p : PageIdx), c.colLowBase ||| n.setWidth 8 ≠ c.pageSelBase ||| p.setWidth 8) ∧
    (∀ (n : BitVec 4) (p : PageIdx), c.colHighBase ||| n.setWidth 8 ≠ c.pageSelBase ||| p.setWidth 8)) ∧
  Config.usual.wf = true ∧
  (∀ s : State, s.cfg.wf = false → step s = .refused .badConfiguration) ∧
  (∀ c : Config, c.wf = true →
    (∀ n : BitVec 4,
      c.colLowBase ||| n.setWidth 8 = c.colLowBase + n.setWidth 8 ∧
      c.colLowBase ||| n.setWidth 8 = c.colLowBase.extractLsb' 4 4 ++ n ∧
      c.colHighBase ||| n.setWidth 8 = c.colHighBase + n.setWidth 8 ∧
      c.colHighBase ||| n.setWidth 8 = c.colHighBase.extractLsb' 4 4 ++ n) ∧
    (∀ p : PageIdx, (c.pageSelBase ||| p.setWidth 8).extractLsb' 0 3 = p ∧
      (c.pageSelBase ||| p.setWidth 8) &&& 0xF8#8 = c.pageSelBase) ∧
    (∀ n : BitVec 4, decode c (.command (c.colLowBase ||| n.setWidth 8)) = .instr (.setColLow n) ∧
      decode c (.command (c.colHighBase ||| n.setWidth 8)) = .instr (.setColHigh n)) ∧
    ∀ p : PageIdx, decode c (.command (c.pageSelBase ||| p.setWidth 8)) = .instr (.setPage p))

/-- R102: a segment splits into the nibbles `s & 0x0F` and `(s >> 4) & 0x0F`, the high one at most 7, and
`s = 16 * high + low`; the command bytes are the bases OR the nibbles, which under R7 (b) are the sums. -/
def Obligations.SegmentNibbles : Prop :=
  ∀ (c : Config) (x : SegIdx), c.wf = true →
    let b : Byte := x.setWidth 8
    (b &&& 0x0F#8).toNat = x.toNat % 16 ∧
    ((b >>> 4) &&& 0x0F#8).toNat = x.toNat / 16 ∧
    ((b >>> 4) &&& 0x0F#8).toNat ≤ 7 ∧
    x.toNat = 16 * ((b >>> 4) &&& 0x0F#8).toNat + (b &&& 0x0F#8).toNat ∧
    colLowByte c b = c.colLowBase ||| (b &&& 0x0F#8) ∧
    colLowByte c b = c.colLowBase + (b &&& 0x0F#8) ∧
    colHighByte c b = c.colHighBase ||| ((b >>> 4) &&& 0x0F#8) ∧
    colHighByte c b = c.colHighBase + ((b >>> 4) &&& 0x0F#8)

/-- R98, R99, R100, R107: the three payloads byte by byte, and their lengths. -/
def Obligations.FrameLayouts : Prop :=
  ∀ (c : Config) (p : PageIdx) (x : SegIdx) (bytes : List Byte),
    encode c (.fa p x) = .payload [c.ctrlCmdStream, c.colLowBase ||| ((x.setWidth 8 : Byte) &&& 0x0F#8),
      c.colHighBase ||| (((x.setWidth 8 : Byte) >>> 4) &&& 0x0F#8), c.pageSelBase ||| p.setWidth 8] ∧
    encode c (.fd bytes) = .payload ([c.ctrlDataStream] ++ bytes) ∧
    encode c (.fc p) = .payload ([c.ctrlCmdSingle, c.pageSelBase ||| p.setWidth 8, c.ctrlDataStream] ++
      List.replicate 128 0x00#8) ∧
    (addrPayload c p x).length = 4 ∧ (frameFD c bytes).length = 1 + bytes.length ∧ (clearPayload c p).length = 131

/-! ## The remap unit -/

/-- R130, and log 11 (the model's choice): COPY_BIT writes only the model's output field; bit `dstBit` of the result is bit `srcBit` of the
source, the other bits are the destination's, and where the two bits agree the destination is unchanged. -/
def Obligations.CopyBitCopiesOneBit : Prop :=
  ∀ (src dst : Byte) (srcBit dstBit : BitVec 3) (s : State),
    exec (.copyBit src srcBit dst dstBit) s = .next { s with copyOut := copyBit src srcBit dst dstBit } ∧
    copyBit src srcBit dst dstBit =
      (dst &&& ~~~(1#8 <<< dstBit.toNat)) ||| ((BitVec.ofBool (src.getLsbD srcBit.toNat)).setWidth 8 <<< dstBit.toNat) ∧
    (copyBit src srcBit dst dstBit).getLsbD dstBit.toNat = src.getLsbD srcBit.toNat ∧
    (∀ i, i < 8 → i ≠ dstBit.toNat → (copyBit src srcBit dst dstBit).getLsbD i = dst.getLsbD i) ∧
    (dst.getLsbD dstBit.toNat = src.getLsbD srcBit.toNat → copyBit src srcBit dst dstBit = dst) ∧
    copyBit 0x80#8 7#3 0x00#8 3#3 = 0x08#8

/-- R131: at most the one bit at `dstBit` changes, and it changes exactly when the two bits differ (a); idempotent (b);
copies to different bits commute (c); the source matters only through its bit (d); copying to all eight bits, in any
order, gives the byte of the source bits whatever the destination was (e). -/
def Obligations.CopyBitLaws : Prop :=
  (∀ (src dst : Byte) (sb db : BitVec 3), copyBit src sb dst db ^^^ dst =
    if src.getLsbD sb.toNat = dst.getLsbD db.toNat then 0x00#8 else 1#8 <<< db.toNat) ∧
  (∀ (src dst : Byte) (sb db : BitVec 3), copyBit src sb (copyBit src sb dst db) db = copyBit src sb dst db) ∧
  (∀ (src src' dst : Byte) (sb sb' db db' : BitVec 3), db ≠ db' →
    copyBit src' sb' (copyBit src sb dst db) db' = copyBit src sb (copyBit src' sb' dst db') db) ∧
  (∀ (src src' dst : Byte) (sb sb' db : BitVec 3), src.getLsbD sb.toNat = src'.getLsbD sb'.toNat →
    copyBit src sb dst db = copyBit src' sb' dst db) ∧
  (∀ (src : BitVec 3 → Byte) (sb : BitVec 3 → BitVec 3) (dst : Byte) (order : List (BitVec 3)),
    (∀ i : BitVec 3, i ∈ order) → ∀ i : BitVec 3,
      (order.foldl (fun d j => copyBit (src j) (sb j) d j) dst).getLsbD i.toNat = (src i).getLsbD (sb i).toNat) ∧
  copyBit 0x00#8 0#3 0xFF#8 7#3 = 0x7F#8 ∧ copyBit 0x01#8 0#3 0xFF#8 7#3 = 0xFF#8 ∧
  copyBit 0xA5#8 2#3 0x10#8 0#3 = 0x11#8 ∧ copyBit 0xA5#8 1#3 0x11#8 0#3 = 0x10#8

/-- R133: MAP is a bijection from the source triples onto the buffer triples, with the inverse the rule gives. -/
def Obligations.MapIsABijection : Prop :=
  (∀ r j k, r < 64 → j < 16 → k < 8 →
    (mapIndex r j k).page < 8 ∧ (mapIndex r j k).seg < 128 ∧ (mapIndex r j k).dbit < 8) ∧
  (∀ p x b, p < 8 → x < 128 → b < 8 →
    (8 * p + b < 64 ∧ x / 8 < 16 ∧ x % 8 < 8) ∧ mapIndex (8 * p + b) (x / 8) (x % 8) = ⟨p, x, b⟩ ∧
    ∀ r j k, r < 64 → j < 16 → k < 8 → mapIndex r j k = ⟨p, x, b⟩ → r = 8 * p + b ∧ j = x / 8 ∧ k = x % 8)

/-- R137: CONVERT completes from every idle state on a bitmap of 1024 bytes. Every bit of every cell is the source bit the
rule names, and every pixel of the buffer is the bitmap's; nothing else in the block has changed except the remap unit's
registers, the latch, the result, and the records of an operation that made no transaction (R138); `Ended` names the
model's own among them (log 5, 13, 24). -/
def Obligations.ConvertTransposes : Prop :=
  ∀ (o : Operands) (s : State), s.phase = .idle → o.len = 1024#16 →
    ∃ t, exec (.convert o) s = .next t ∧
      (∀ (p : PageIdx) (x : SegIdx) (b : Nat), b < 8 →
        (t.cell p x).getLsbD b = (s.opbByte (16 * (8 * p.toNat + b) + x.toNat / 8)).getLsbD (7 - x.toNat % 8)) ∧
      (∀ x y, x < 128 → y < 64 → t.bufferPixel x y = s.sourcePixel x y) ∧
      Ended 0#3 o [] s t ∧ t.rdr = s.rdr ∧ t.seq = s.seq

/-- R136, R26: after CONVERT the counters are 0 by the wrap of their widths (log 12). (That `sbit` is then 7 is the model's
choice, log 12, and not stated.) `sbyte` no longer holds the last source byte (R32) but a free value (log 27). -/
def Obligations.ConvertCountersWrap : Prop :=
  ∀ (o : Operands) (s : State), s.phase = .idle → o.len = 1024#16 →
    ∃ t, exec (.convert o) s = .next t ∧ t.rmp.page = 0 ∧ t.rmp.dbit = 0 ∧ t.rmp.seg = 0 ∧ t.rmp.off = 0 ∧
      t.rmp.row = 0 ∧ t.rmp.idx = 0 ∧ t.rmp.sbyte = Config.freeSourceByte s.serial

/-- R134, R212: a CONVERT whose length is not 1024 is rejected with E_LEN and does nothing else. -/
def Obligations.ConvertRejectsOtherLengths : Prop :=
  ∀ (o : Operands) (s : State), s.phase = .idle → o.len ≠ 1024#16 →
    exec (.convert o) s = .next (s.rejectedWith 0#3 o .eLen)

/-- R136, R132: at every micro-step of CONVERT the registers stand in the relations of the rule; at step 2 the destination
is MAP(row, idx, k) with `k = 7 - sbit`, and the source byte is `OPB[16*row + idx]`. Every step and every micro-step keeps
them, from every state in which they hold. -/
def Obligations.ConvertRegistersFollowTheMap : Prop :=
  ∀ s t : State, s.remapPlaced → (tick s = .next t ∨ step s = .next t) → t.remapPlaced

/-- R139 (b): a bitmap with one bit set, at row `R`, column `C`, gives a buffer with one bit set, at page `R/8`, segment
`C`, bit `R mod 8`. -/
def Obligations.ConvertSinglePixel : Prop :=
  ∀ (o : Operands) (s : State) (R C : Nat), s.phase = .idle → o.len = 1024#16 → R < 64 → C < 128 →
    (∀ i j, i < 1024 → j < 8 → (s.opbByte i).getLsbD j = decide (i = 16 * R + C / 8 ∧ j = 7 - C % 8)) →
    ∃ t, exec (.convert o) s = .next t ∧
      ∀ (p : PageIdx) (x : SegIdx) (b : Nat), b < 8 →
        (t.cell p x).getLsbD b = decide (p.toNat = R / 8 ∧ x.toNat = C ∧ b = R % 8)

/-- R137, R139 (a), (e): the old contents of DB have no influence: from any two buffers the same bitmap gives the same
buffer; an all-zero bitmap gives the buffer of reset; converting twice is converting once. -/
def Obligations.ConvertForgetsOldBuffer : Prop :=
  (∀ (o o' : Operands) (s s' t t' : State), s.phase = .idle → s'.phase = .idle → o.len = 1024#16 → o'.len = 1024#16 →
    s.db.wf → s'.db.wf → (∀ i, i < 1024 → s.opbByte i = s'.opbByte i) →
    exec (.convert o) s = .next t → exec (.convert o') s' = .next t' → t.db = t'.db) ∧
  (∀ (o : Operands) (s t : State), s.phase = .idle → o.len = 1024#16 → s.db.wf → (∀ i, i < 1024 → s.opbByte i = 0) →
    exec (.convert o) s = .next t → t.db = State.reset.db)

/-! ## The sequencer and the device -/

/-- R61, R150 to R152: a command byte sets the device's column nibble or page, and nothing else of the device but the
receiver's position (a single-command group has had its command, R97); FBRP's own state is not touched. -/
def Obligations.DeviceCommands : Prop :=
  (∀ (n : BitVec 4) (s : State), ∃ d, exec (.setColLow n) s = .next { s with dev := d } ∧
    d.col.extractLsb' 0 4 = n ∧ d.col.extractLsb' 4 3 = s.dev.col.extractLsb' 4 3 ∧ d.page = s.dev.page ∧
    d.gd = s.dev.gd ∧ d.rx = (if s.dev.rx = .oneCommand then .control else s.dev.rx)) ∧
  (∀ (n : BitVec 4) (s : State), ∃ d, exec (.setColHigh n) s = .next { s with dev := d } ∧
    d.col.extractLsb' 4 3 = n.extractLsb' 0 3 ∧ d.col.extractLsb' 0 4 = s.dev.col.extractLsb' 0 4 ∧
    d.page = s.dev.page ∧ d.gd = s.dev.gd ∧ d.rx = (if s.dev.rx = .oneCommand then .control else s.dev.rx)) ∧
  (∀ (p : PageIdx) (s : State), ∃ d, exec (.setPage p) s = .next { s with dev := d } ∧
    d.page = p ∧ d.col = s.dev.col ∧ d.gd = s.dev.gd ∧
    d.rx = (if s.dev.rx = .oneCommand then .control else s.dev.rx))

/-- R97: a control byte says how the bytes after it are read, and does nothing else. -/
def Obligations.ControlBytes : Prop :=
  ∀ s : State,
    exec .ctrlCmdStream s = .next { s with dev := { s.dev with rx := .commands } } ∧
    exec .ctrlCmdSingle s = .next { s with dev := { s.dev with rx := .oneCommand } } ∧
    exec .ctrlDataStream s = .next { s with dev := { s.dev with rx := .data } }

/-- R12, R33, R35, R96, R154, R216: a frame by itself is one transaction: its four calls in order, with DEV_ADDR and the
direction WRITE; its payload and its status recorded, its TS event delivered, `r_anyfail` set by a FAIL; nothing else of
the block changes. The device has received the whole payload when the status is OK, and some first part of it otherwise
(R63). -/
def Obligations.FrameIsOneTransaction : Prop :=
  ∀ (i : Instr) (payload : List Byte) (s : State), i.wf = true → encode s.cfg i = .payload payload → s.tx = none →
    ∃ t n, exec i s = .next t ∧
      t.calls = s.calls ++ [.begin (s.answer 0).handle, .address (s.answer 0).handle s.cfg.devAddr .write,
        .bytes (s.answer 0).handle payload, .finish (s.answer 0).handle (s.answer 0).status] ∧
      t.tr = s.tr ++ [payload] ∧ t.sl = s.sl ++ [(s.answer 0).status] ∧
      t.rsp = s.rsp ++ [.ts s.sl.length (s.answer 0).status] ∧
      t.res.anyfail = (s.res.anyfail || (s.answer 0).status == .fail) ∧
      t.res.code = s.res.code ∧ t.res.cause = s.res.cause ∧
      t.dev = s.dev.receive s.cfg (payload.take n) ∧ ((s.answer 0).status = .ok → payload.length ≤ n) ∧
      (∀ k, t.answer k = s.answer (k + 1)) ∧
      t.cfg = s.cfg ∧ t.db = s.db ∧ t.rmp = s.rmp ∧ t.rdr = s.rdr ∧ t.seq = s.seq ∧ t.latch = s.latch ∧
      t.phase = s.phase ∧ t.pos = s.pos ∧ t.tx = none ∧ t.burst = s.burst ∧ t.opb = s.opb ∧ t.inbox = s.inbox ∧
      t.copyOut = s.copyOut ∧ t.rst = s.rst

/-- R154: after an addressing sequence that answered OK the device stands at the page and the column, its memory as
before. -/
def Obligations.AddressingPlacesTheDevice : Prop :=
  ∀ (p : PageIdx) (x : SegIdx) (s : State), s.cfg.wf = true → s.tx = none → (s.answer 0).status = .ok →
    ∃ t, exec (.fa p x) s = .next t ∧ t.dev.page = p ∧ t.dev.col = x ∧ t.dev.gd = s.dev.gd

/-- R155, R62: after a data burst that answered OK and stayed inside the row, the bytes stand in the device's page from
its column on, every other cell is as before, the page is unchanged, and the column has advanced past them; at the end of
the row COL_WRAP says where it stands. -/
def Obligations.DataBurstLandsAtTheDevice : Prop :=
  ∀ (bytes : List Byte) (s : State), s.cfg.wf = true → s.tx = none → (Instr.fd bytes).wf = true →
    (s.answer 0).status = .ok → s.dev.col.toNat + bytes.length ≤ 128 →
    ∃ t, exec (.fd bytes) s = .next t ∧
      (∀ (i : Nat) (h : i < bytes.length),
        t.dev.cell? s.dev.page (BitVec.ofNat 7 (s.dev.col.toNat + i)) = some (bytes[i]'h)) ∧
      (∀ (q : PageIdx) (x : SegIdx),
        ¬ (q = s.dev.page ∧ s.dev.col.toNat ≤ x.toNat ∧ x.toNat < s.dev.col.toNat + bytes.length) →
        t.dev.cell? q x = s.dev.cell? q x) ∧
      t.dev.page = s.dev.page ∧
      (s.dev.col.toNat + bytes.length < 128 → t.dev.col.toNat = s.dev.col.toNat + bytes.length) ∧
      (∀ w, s.dev.col.toNat + bytes.length = 128 → s.cfg.colWrap = .to w → t.dev.col = w)

/-- R156: after a clear frame that answered OK the device is on the page, and, when its column stood at 0 or wraps within
the page, all 128 cells of the page are 0 and every other page is as before. -/
def Obligations.ClearFrameZeroesAPage : Prop :=
  ∀ (p : PageIdx) (s : State), s.cfg.wf = true → s.tx = none → (s.answer 0).status = .ok →
    ∃ t, exec (.fc p) s = .next t ∧ t.dev.page = p ∧
      (s.dev.col = 0 ∨ s.cfg.colWrap = .to 0 →
        (∀ x : SegIdx, t.dev.cell? p x = some 0x00#8) ∧
        ∀ (q : PageIdx) (x : SegIdx), q ≠ p → t.dev.cell? q x = s.dev.cell? q x)

/-- R99, R105: a data burst of no bytes, or of more than 128, is no frame and is refused. -/
def Obligations.BurstLengthRefused : Prop :=
  ∀ (bytes : List Byte) (s : State), bytes.length = 0 ∨ 128 < bytes.length →
    exec (.fd bytes) s = .refused .burstLength

/-! ## FLUSH -/

/-- R170: the reader gives the page row in ascending segment order, each cell once, in linear addresses 128*p to
128*p + 127; its counter is 0 again; the buffer and everything else is as before. After reset every row is zero. The first
clause speaks of `burst`, the model's list of the bytes output (log 13), one cell a micro-step (log 1). -/
def Obligations.ReaderGivesThePageRow : Prop :=
  (∀ s : State, flRead^[128] (flStart s) =
    { s with
      rdr := ⟨s.rdr.rpage, 0#7⟩
      burst := (List.range 128).map fun i => s.cell s.rdr.rpage (BitVec.ofNat 7 i) }) ∧
  (∀ (s : State) (p : PageIdx), s.reader p = (List.range 128).map fun i => s.cell p (BitVec.ofNat 7 i)) ∧
  (∀ (s : State) (p : PageIdx), s.reader p = (List.range 128).map fun i => s.db.read (128 * p.toNat + i)) ∧
  (∀ p : PageIdx, State.reset.reader p = List.replicate 128 0x00#8)

/-- R174, R175: FLUSH completes from every idle state, with exactly the sixteen transactions of the rule whatever they
answer (1064 payload bytes), the buffer unchanged, the reader's counters 0. `Ended` also says the latch, the calls, the
events and the device (R31, R96, R35, R63), and fixes the model's own `pos`, `burst` and `serial` (log 13), its records'
span (log 24) and how answers are drawn (log 5). -/
def Obligations.FlushSendsEveryPage : Prop :=
  ∀ (o : Operands) (s : State), s.phase = .idle →
    ∃ t, exec (.flush o) s = .next t ∧ Ended 1#3 o s.flushTrace s t ∧
      t.tr = (List.range 8).flatMap (fun p =>
        [[s.cfg.ctrlCmdStream, s.cfg.colLowBase, s.cfg.colHighBase, s.cfg.pageSelBase ||| BitVec.ofNat 8 p],
          s.cfg.ctrlDataStream :: s.reader (BitVec.ofNat 3 p)]) ∧
      (∀ p : PageIdx, (frameFD s.cfg (s.reader p)).length = 129) ∧ (t.tr.map List.length).sum = 1064 ∧
      t.db = s.db ∧ t.rdr = ⟨0#3, 0#7⟩ ∧ t.rmp = s.rmp ∧ t.seq = s.seq

/-- R176 (a): two flushes of the same buffer make the same bus traffic, in particular one after the other. -/
def Obligations.FlushTrafficIsAFunctionOfTheBuffer : Prop :=
  (∀ (o o' : Operands) (s s' t t' : State), s.phase = .idle → s'.phase = .idle → s.cfg = s'.cfg → s.db = s'.db →
    exec (.flush o) s = .next t → exec (.flush o') s' = .next t' → t.tr = t'.tr) ∧
  (∀ (o o' : Operands) (s t u : State), s.phase = .idle →
    exec (.flush o) s = .next t → exec (.flush o') t = .next u → u.tr = t.tr ∧ u.db = s.db)

/-- R176 (b): after a FLUSH all of whose sixteen transactions answered OK the device's memory equals the Display Buffer,
whatever it held and wherever the device stood; it stands on page 7, its column where COL_WRAP puts it. -/
def Obligations.FlushMakesTheDeviceEqualTheBuffer : Prop :=
  ∀ (o : Operands) (s : State), s.phase = .idle → s.cfg.wf = true → (∀ k, k < 16 → (s.answer k).status = .ok) →
    ∃ t, exec (.flush o) s = .next t ∧
      (∀ (p : PageIdx) (x : SegIdx), t.dev.cell? p x = some (s.cell p x)) ∧ t.dev.page = 7 ∧
      (∀ w, s.cfg.colWrap = .to w → t.dev.col = w) ∧ t.res.code = .ok

/-! ## BLIT -/

/-- R178: BLIT completes from every idle state on operands that meet its checks, with its two transactions whatever the
first answers; the buffer is neither read nor written. That `cidx` ends at the width is the model's reading (log 12), and
`Ended` names what else is the model's own (log 5, 13, 24). -/
def Obligations.BlitSendsItsBytes : Prop :=
  ∀ (o : Operands) (s : State), s.phase = .idle → o.page.toNat ≤ 7 → o.seg.toNat ≤ 127 → 1 ≤ o.width.toNat →
    o.seg.toNat + o.width.toNat ≤ 128 → o.width.toNat ≤ o.len.toNat →
    ∃ t, exec (.blit o) s = .next t ∧ Ended 3#3 o (s.blitTrace o) s t ∧
      t.db = s.db ∧ t.rdr = s.rdr ∧ t.rmp = s.rmp ∧
      t.seq = { s.seq with cidx := o.width.setWidth 16 }

/-- R179: when both transactions of a BLIT answer OK, its bytes stand in the device's memory from the segment on and every
other cell is as before. -/
def Obligations.BlitWritesTheDevice : Prop :=
  ∀ (o : Operands) (s : State), s.phase = .idle → s.cfg.wf = true → o.page.toNat ≤ 7 → o.seg.toNat ≤ 127 →
    1 ≤ o.width.toNat → o.seg.toNat + o.width.toNat ≤ 128 → o.width.toNat ≤ o.len.toNat →
    (s.answer 0).status = .ok → (s.answer 1).status = .ok →
    ∃ t, exec (.blit o) s = .next t ∧
      ∀ (q : PageIdx) (x : SegIdx), t.dev.cell? q x =
        if q.toNat = o.page.toNat ∧ o.seg.toNat ≤ x.toNat ∧ x.toNat < o.seg.toNat + o.width.toNat then
          some (s.opbByte (x.toNat - o.seg.toNat))
        else s.dev.cell? q x

/-- R178, R213, R212: BLIT's checks in their order, the first failure named, nothing else done. -/
def Obligations.BlitRejectsInOrder : Prop :=
  ∀ (o : Operands) (s : State), s.phase = .idle →
    (7 < o.page.toNat → exec (.blit o) s = .next (s.rejectedWith 3#3 o .ePage)) ∧
    (o.page.toNat ≤ 7 → 127 < o.seg.toNat → exec (.blit o) s = .next (s.rejectedWith 3#3 o .eSeg)) ∧
    (o.page.toNat ≤ 7 → o.seg.toNat ≤ 127 →
      o.width.toNat = 0 ∨ 128 < o.seg.toNat + o.width.toNat ∨ o.len.toNat < o.width.toNat →
      exec (.blit o) s = .next (s.rejectedWith 3#3 o .eWidth))

/-! ## TEXT -/

/-- R190, R191: TEXT completes from every idle state on a text of at most 7 newlines, with exactly `1 + c_len`
transactions: the initial addressing sequence, then one for each character; afterwards `cur_page` is the number of
newlines; the buffer is neither read nor written. That `cidx` ends at the length and `gidx` at 0 is the model's reading
(log 12), and `Ended` names what else is the model's own (log 5, 13, 24). -/
def Obligations.TextStreamsItsCharacters : Prop :=
  ∀ (o : Operands) (s : State), s.phase = .idle → s.newlines o.len.toNat ≤ 7 →
    ∃ t, exec (.text o) s = .next t ∧ Ended 4#3 o (s.textTrace o.len.toNat) s t ∧
      t.tr.length = 1 + o.len.toNat ∧
      t.seq.curPage.toNat = s.newlines o.len.toNat ∧ t.seq.cidx = o.len ∧ t.seq.gidx = 0 ∧
      t.db = s.db ∧ t.rdr = s.rdr ∧ t.rmp = s.rmp

/-- R194, R212: a text of more than 7 newlines is rejected whole with E_PAGE_OVF: no transaction, no register. -/
def Obligations.TextRejectsPageOverflow : Prop :=
  ∀ (o : Operands) (s : State), s.phase = .idle → 7 < s.newlines o.len.toNat →
    exec (.text o) s = .next (s.rejectedWith 4#3 o .ePageOvf)

/-! ## CLEAR -/

/-- R200, R201, R202: CLEAR completes from every idle state, with exactly its eight transactions whatever they answer
(1048 payload bytes); every cell of the buffer is 0 whatever they answer. `Ended` also says the latch, the calls, the events
and the device (R31, R96, R35, R63), and fixes the model's own `pos`, `burst` and `serial` (log 13), its records' span
(log 24) and how answers are drawn (log 5). -/
def Obligations.ClearZeroesTheBuffer : Prop :=
  ∀ (o : Operands) (s : State), s.phase = .idle →
    ∃ t, exec (.clear o) s = .next t ∧ Ended 2#3 o (clearTrace s.cfg) s t ∧
      t.tr = (List.range 8).map (fun p =>
        [s.cfg.ctrlCmdSingle, s.cfg.pageSelBase ||| BitVec.ofNat 8 p, s.cfg.ctrlDataStream] ++
          List.replicate 128 0x00#8) ∧
      (t.tr.map List.length).sum = 1048 ∧
      (∀ (p : PageIdx) (x : SegIdx), t.cell p x = 0x00#8) ∧
      t.rdr = { s.rdr with rpage := 0#3 } ∧ t.rmp = s.rmp ∧ t.seq = s.seq

/-- R203 (a): when all eight transactions of a CLEAR answer OK and the device's column wraps to 0 within the page, the
device's memory is all zero from any column, the device stands on page 7, and its column is back where it stood. (The
wrap to 0 is an assumption here, named in the premise: the spec leaves COL_WRAP open, D27.) -/
def Obligations.ClearZeroesTheDevice : Prop :=
  ∀ (o : Operands) (s : State), s.phase = .idle → s.cfg.wf = true → s.cfg.colWrap = .to 0 →
    (∀ k, k < 8 → (s.answer k).status = .ok) →
    ∃ t, exec (.clear o) s = .next t ∧ (∀ (p : PageIdx) (x : SegIdx), t.dev.cell? p x = some 0x00#8) ∧
      t.dev.page = 7 ∧ t.dev.col = s.dev.col ∧ t.res.code = .ok

/-! ## The machine -/

/-- R93, R212: a command word with op 5, 6 or 7 or a reserved bit set is taken and rejected with E_OP, and nothing else is
done; every other word is an operation. That the word stands at the head of a queue with its operand buffer is the model's
choice (log 7, 9), and `rejectedWith` fixes the model's own `pos`, `burst`, `serial`, `tr` and `sl` (log 13, 24). -/
def Obligations.ReservedWordsAreRejected : Prop :=
  (∀ (s : State) (w : CommandWord) (buf : List Byte) (rest : List Item), s.rst = false → s.cfg.wf = true →
    s.phase = .idle → s.inbox = .cmd w buf :: rest → 5 ≤ w.op.toNat ∨ w.rsv0 ≠ 0 ∨ w.rsv1 ≠ 0 →
    step s = .next (({ s with inbox := rest, opb := buf } : State).rejectedWith w.op w.operands .eOp)) ∧
  (∀ w : CommandWord, w.op.toNat < 5 → w.rsv0 = 0 → w.rsv1 = 0 → ∃ i, decodeWord w = .instr i)

/-- R8, R31, R97: an idle block runs what is at the head of its queue. A command word that decodes is executed with its
operand buffer, a payload or a copy request likewise; a byte at the device's receiver is read as its position says. (A
command on too short an operand buffer is refused: `ShortOperandBufferIsRefused`.) -/
def Obligations.StepRunsTheDecodedInstruction : Prop :=
  ∀ (s : State) (i : Instr) (rest : List Item), s.rst = false → s.cfg.wf = true → s.phase = .idle →
    (∀ w buf, s.inbox = .cmd w buf :: rest → s.shortOperand = false → decode s.cfg (.word w) = .instr i →
      step s = exec i { s with inbox := rest, opb := buf }) ∧
    (∀ payload, s.inbox = .frame payload :: rest → decode s.cfg (.payload payload) = .instr i →
      step s = exec i { s with inbox := rest }) ∧
    (∀ b, s.inbox = .rx b :: rest → s.dev.rx = .control → decode s.cfg (.control b) = .instr i →
      step s = exec i { s with inbox := rest }) ∧
    (∀ b, s.inbox = .rx b :: rest → s.dev.rx = .oneCommand ∨ s.dev.rx = .commands →
      decode s.cfg (.command b) = .instr i → step s = exec i { s with inbox := rest }) ∧
    (∀ src srcBit dst dstBit, s.inbox = .copy src srcBit dst dstBit :: rest → i = .copyBit src srcBit dst dstBit →
      step s = exec i { s with inbox := rest })

/-- The host's way in (the model's choice, log 10, 20): from an idle state with the usual configuration, the step after
`withFetchWord` runs exactly the instruction the decoder reads from the row's bits, in that state but for the receiver's
position: at a control byte for a control byte's row, among commands for a command's row, as it was for every other row;
and but for the operand buffer, which for a command word reaches to its length (log 7) and answers what it answered before. -/
def Obligations.WithFetchWordRunsTheRow : Prop :=
  ∀ (s : State) (nbits w : Nat) (i : Instr), s.cfg = Config.usual → s.phase = .idle → s.pos = .rest → s.tx = none →
    s.rst = false → decodeTableWord nbits w = some i →
    let m := Encoded.rxMode (tableEncoded nbits w) s
    let buf := Encoded.buffer (tableEncoded nbits w) s
    step (s.withFetchWord nbits w) = exec i { s with dev := { s.dev with rx := m }, opb := buf } ∧
      (∀ k, ({ s with opb := buf } : State).opbByte k = s.opbByte k) ∧ (nbits ≠ 64 → buf = s.opb) ∧
      (i = .ctrlCmdStream ∨ i = .ctrlCmdSingle ∨ i = .ctrlDataStream → m = .control) ∧
      ((∃ n, i = .setColLow n ∨ i = .setColHigh n) ∨ (∃ p, i = .setPage p) → m = .commands) ∧
      (nbits ≠ 8 → m = s.dev.rx)

/-- R31, R250: while the block is busy no command is taken: the queue is unchanged by every step, and a command presented
to it all the same waits and changes nothing. -/
def Obligations.BusyBlockTakesNoCommand : Prop :=
  (∀ s t : State, s.rst = false → s.phase ≠ .idle → step s = .next t → t.inbox = s.inbox ∧ t.opb = s.opb) ∧
  (∀ (o : Operands) (s : State), s.phase ≠ .idle →
    exec (.convert o) s = .next s ∧ exec (.flush o) s = .next s ∧ exec (.clear o) s = .next s ∧
    exec (.blit o) s = .next s ∧ exec (.text o) s = .next s)

/-- R28, R31: how the position advances. IDLE to CHECK exactly when a command word is at the head of the queue (log 9; unless the
machine refuses it, log 7); it is latched and `r_anyfail` cleared. CHECK to DONE with ERR_PRECOND and the cause when a precondition fails, otherwise to RUN with
the operation's initial micro-step. RUN to DONE exactly after the operation's last micro-step. DONE to IDLE, the completion
event delivered. Without the reset input nothing else happens. -/
def Obligations.PhasesAdvanceInOrder : Prop :=
  ∀ s t : State, s.rst = false → tick s = .next t →
    (s.phase = .idle →
      (∀ w buf rest, s.inbox = .cmd w buf :: rest →
        t.phase = .check ∧ t.inbox = rest ∧ t.opb = buf ∧ t.res.anyfail = false ∧
        t.latch = ⟨w.op, w.operands.page, w.operands.seg, w.operands.width, w.operands.len⟩) ∧
      ((∀ w buf rest, s.inbox ≠ .cmd w buf :: rest) → t.phase = .idle)) ∧
    (s.phase = .check → ∃ reservedClear, s.pos = .checking reservedClear ∧
      (precondition reservedClear s = .none → t.phase = .run ∧ t.pos = firstPos s.latch.op) ∧
      (precondition reservedClear s ≠ .none →
        t.phase = .done ∧ t.res.code = .errPrecond ∧ t.res.cause = precondition reservedClear s)) ∧
    (s.phase = .run →
      if s.tx = none ∧ s.pos ∈ [.cvEnd, .flEnd, .clEnd, .blEnd, .teEnd] then t.phase = .done else t.phase = .run) ∧
    (s.phase = .done → t.phase = .idle ∧ t.rsp = s.rsp ++ [.done s.res.code s.res.cause])

/-- R23, R39, R240: what reset leaves, for every value the spec gives. -/
def Obligations.ResetValues : Prop :=
  (∀ (p : PageIdx) (x : SegIdx), State.reset.cell p x = 0x00#8) ∧
  State.reset.phase = .idle ∧ State.reset.busy = false ∧
  State.reset.rmp.row = 0 ∧ State.reset.rmp.idx = 0 ∧ State.reset.rmp.sbit = 7 ∧ State.reset.rmp.seg = 0 ∧
  State.reset.rmp.page = 0 ∧ State.reset.rmp.dbit = 0 ∧ State.reset.rmp.off = 0 ∧
  State.reset.rdr = ⟨0, 0⟩ ∧ State.reset.seq = ⟨0, 0, 0⟩ ∧
  State.reset.res = ⟨.ok, .none, false⟩ ∧ State.reset.tx = none

/-- R240 to R242: under a configuration that meets R7, the reset input ends whatever is under way with no DONE event; the
block is as after reset; the configuration, the host's queue and buffer, and the events delivered stay; with no transaction open the device and the
transport's answers stay too. (Of the remap unit's registers R39 leaves `sbyte` unspecified: that it is 0, as in
`State.reset`, is the model's choice, log 8. That reset is an input the step reads, and that it is taken away when served, is another, log 14.) -/
def Obligations.ResetInputDiscardsTheOperation : Prop :=
  ∀ s : State, s.cfg.wf = true → s.rst = true →
    ∃ t, step s = .next t ∧ t.db = State.reset.db ∧ t.rmp = State.reset.rmp ∧ t.rdr = State.reset.rdr ∧
      t.seq = State.reset.seq ∧ t.res = State.reset.res ∧ t.phase = .idle ∧ t.tx = none ∧ t.rst = false ∧
      t.rsp = s.rsp ∧ t.calls = s.calls ∧ t.cfg = s.cfg ∧ t.inbox = s.inbox ∧ t.opb = s.opb ∧
      (s.tx = none → t.dev = s.dev ∧ t.answers = s.answers ∧ t.drawn = s.drawn) ∧
      (∀ o, s.tx = some o → t.dev = s.dev ∨ ∃ n, t.dev = s.dev.receive s.cfg (o.payload.take n))

/-- The invariant holds after reset. -/
def Obligations.ResetMeetsTheInvariant : Prop := State.reset.Inv

/-- Every step keeps the invariant, from every state in which it holds: the memories in canonical form, the control
position one, one status per transaction, `r_anyfail` and `r_cause` as R29 says. -/
def Obligations.StepKeepsTheInvariant : Prop := ∀ s t : State, s.Inv → step s = .next t → t.Inv

/-- So does every micro-step. -/
def Obligations.TickKeepsTheInvariant : Prop := ∀ s t : State, s.Inv → tick s = .next t → t.Inv

/-- No fault is raised from a state in which the invariant holds: the two faults of the model are for states no run
reaches. -/
def Obligations.NoFaultIsReached : Prop := ∀ (s : State) (f : Fault), s.Inv → step s ≠ .fault f ∧ tick s ≠ .fault f

/-- R8: the two forms of every operation agree: the micro-steps that follow the taking of a command word lead, after
finitely many (R263), to exactly the state the operation's function gives, and the block is busy all the way, so that no
partial result is visible and no command is taken (R28). (A command on too short an operand buffer is refused in both
forms: `ShortOperandBufferIsRefused`.) -/
def Obligations.MicroStepsAgreeWithTheOperation : Prop :=
  ∀ (s : State) (w : CommandWord) (buf : List Byte) (rest : List Item), s.rst = false → s.cfg.wf = true →
    s.phase = .idle → s.tx = none → s.inbox = .cmd w buf :: rest → s.shortOperand = false →
    ∃ (t : State) (n : Nat), step s = .next t ∧ ticks n s = .next t ∧
      ∀ k, 0 < k → k < n → ∃ u, ticks k s = .next u ∧ u.phase ≠ .idle

/-- R22: only CONVERT and CLEAR write the Display Buffer. -/
def Obligations.OnlyConvertAndClearWriteTheBuffer : Prop :=
  ∀ (i : Instr) (s t : State), exec i s = .next t → t.db ≠ s.db → ∃ o, i = .convert o ∨ i = .clear o

/-- R30, R38: no step changes the configuration, and no instruction the host's queue or its operand buffer. -/
def Obligations.ConfigurationIsFixed : Prop :=
  (∀ s t : State, (step s = .next t ∨ tick s = .next t) → t.cfg = s.cfg) ∧
  (∀ (i : Instr) (s t : State), exec i s = .next t → t.cfg = s.cfg ∧ t.inbox = s.inbox ∧ t.opb = s.opb)

/-- R105: the operations emit no payload but FA, FD of 1 to 128 bytes, and FC, on pages 0 to 7 and segments 0 to 127. -/
def Obligations.OnlyFramesAreEmitted : Prop :=
  ∀ (o : Operands) (i : Instr) (s t : State), s.cfg.wf = true → s.phase = .idle →
    i = .convert o ∨ i = .flush o ∨ i = .clear o ∨ i = .blit o ∨ i = .text o → exec i s = .next t →
    ∀ payload ∈ t.tr, ∃ j, decode s.cfg (.payload payload) = .instr j ∧ j.wf = true

/-- R51, R52: a cell holds exactly what was last written, and a write leaves the 1023 others alone. -/
def Obligations.BufferReadsWhatWasWritten : Prop :=
  ∀ (s : State) (p q : PageIdx) (x y : SegIdx) (v : Byte),
    (s.setCell p x v).cell q y = if q = p ∧ y = x then v else s.cell q y

/-- R226: when idle and offered nothing the block holds its state. -/
def Obligations.IdleBlockHoldsItsState : Prop :=
  ∀ s : State, s.rst = false → s.cfg.wf = true → s.phase = .idle → s.inbox = [] → step s = .next s

/-- R32: after DONE the block holds no copy of an operand byte but what CONVERT copied into the buffer. The same operation
run on two operand buffers leaves the same registers: a CONVERT's two states differ only in the Display Buffer (and in the
host's own buffer); a BLIT and a TEXT leave the same buffer and registers, the result registers among them, and report the
same, but for the page cursor of a TEXT, which counts its newlines. The model's list of gathered bytes is empty (log 13).
What is outside the block differs as it must: the traffic and the device. -/
def Obligations.NoOperandByteIsRetained : Prop :=
  ∀ (o : Operands) (s t u : State) (buf : List Byte), s.phase = .idle →
    (o.len = 1024#16 → exec (.convert o) s = .next t → exec (.convert o) { s with opb := buf } = .next u →
      u = { t with db := u.db, opb := buf } ∧ t.burst = []) ∧
    (exec (.blit o) s = .next t → exec (.blit o) { s with opb := buf } = .next u →
      u.db = t.db ∧ u.rmp = t.rmp ∧ u.rdr = t.rdr ∧ u.seq = t.seq ∧ u.latch = t.latch ∧ u.res = t.res ∧
      u.phase = t.phase ∧ u.rsp = t.rsp ∧ t.burst = []) ∧
    (s.newlines o.len.toNat ≤ 7 → ({ s with opb := buf } : State).newlines o.len.toNat ≤ 7 →
      exec (.text o) s = .next t → exec (.text o) { s with opb := buf } = .next u →
      u.db = t.db ∧ u.rmp = t.rmp ∧ u.rdr = t.rdr ∧ u.seq = { t.seq with curPage := u.seq.curPage } ∧
      u.latch = t.latch ∧ u.res = t.res ∧ u.phase = t.phase ∧ u.rsp = t.rsp ∧ t.burst = [] ∧
      (({ s with opb := buf } : State).newlines o.len.toNat = s.newlines o.len.toNat → u.seq = t.seq))

/-- R252, with U17 of 93_implementation_defined.md: `c_len` must be the true length of the operand buffer. A command whose
operation reads the buffer (CONVERT and BLIT where the fields pass their checks, TEXT always) is refused where the real
buffer is shorter than `c_len`, whole and by the micro-steps, and no other word at the head of the queue is. The meaning
itself trusts `c_len`: OPB answers the buffer's bytes (R54) and a free byte for a missing index (log 7). -/
def Obligations.ShortOperandBufferIsRefused : Prop :=
  (∀ (s : State) (w : CommandWord) (buf : List Byte) (rest : List Item), s.rst = false → s.cfg.wf = true →
    s.phase = .idle → s.inbox = .cmd w buf :: rest →
    let short := w.reservedClear = true ∧ buf.length < w.operands.len.toNat ∧
      ((w.op = 0#3 ∧ w.operands.len = 1024#16) ∨
        (w.op = 3#3 ∧ w.operands.page.toNat ≤ 7 ∧ w.operands.seg.toNat ≤ 127 ∧ 1 ≤ w.operands.width.toNat ∧
          w.operands.seg.toNat + w.operands.width.toNat ≤ 128 ∧ w.operands.width.toNat ≤ w.operands.len.toNat) ∨
        w.op = 4#3)
    (short → step s = .refused .shortOperandBuffer ∧ tick s = .refused .shortOperandBuffer) ∧
    (¬ short → (∃ t, step s = .next t) ∧ ∃ t, tick s = .next t)) ∧
  (∀ (s : State) (i : Nat), s.opbByte i = if h : i < s.opb.length then s.opb[i] else Config.freeOperand s.serial i)
end

