-- ==== Sys2Proof/Laws/Decode.lean ====
section
/-! SUPPORT. What the decoder reads from the bytes the encoder writes, under a configuration that meets 00_scope.md R7. -/

namespace Sys2Proof

set_option Elab.async false

namespace Config

variable {c : Config}

theorem wf_parts (h : c.wf = true) :
    c.ctrlCmdStream ≠ c.ctrlCmdSingle ∧ c.ctrlCmdStream ≠ c.ctrlDataStream ∧ c.ctrlCmdSingle ≠ c.ctrlDataStream ∧
    c.colLowBase &&& 0x0F#8 = 0x00#8 ∧ c.colHighBase &&& 0x0F#8 = 0x00#8 ∧ c.pageSelBase &&& 0x07#8 = 0x00#8 ∧
    c.colLowBase ≠ c.colHighBase ∧ c.pageSelBase &&& 0xF0#8 ≠ c.colLowBase ∧
    c.pageSelBase &&& 0xF0#8 ≠ c.colHighBase := by
  simpa [wf, controlsDiffer, basesClear, commandsDiffer, Bool.and_eq_true, and_assoc] using h

end Config

/-! ## Small facts about bytes, by trying every value -/

theorem low_or_high : ∀ b : Byte, ∀ n : BitVec 4, b &&& 0x0F#8 = 0x00#8 → (b ||| n.setWidth 8) &&& 0xF0#8 = b := by
  decide +kernel

theorem low_or_low : ∀ b : Byte, ∀ n : BitVec 4, b &&& 0x0F#8 = 0x00#8 → (b ||| n.setWidth 8).extractLsb' 0 4 = n := by
  decide +kernel

theorem page_or_high : ∀ b : Byte, ∀ p : PageIdx, b &&& 0x07#8 = 0x00#8 → (b ||| p.setWidth 8) &&& 0xF8#8 = b := by
  decide +kernel

theorem page_or_nibble : ∀ b : Byte, ∀ p : PageIdx, b &&& 0x07#8 = 0x00#8 →
    (b ||| p.setWidth 8) &&& 0xF0#8 = b &&& 0xF0#8 := by
  decide +kernel

theorem page_or_low : ∀ b : Byte, ∀ p : PageIdx, b &&& 0x07#8 = 0x00#8 →
    (b ||| p.setWidth 8).extractLsb' 0 3 = p := by
  decide +kernel

/-- The low nibble of a segment, as the frame carries it (R102). -/
theorem segment_low : ∀ x : SegIdx, (x.setWidth 8 : Byte) &&& 0x0F#8 = (x.extractLsb' 0 4).setWidth 8 := by
  decide +kernel

/-- The high nibble of a segment, as the frame carries it (R102). -/
theorem segment_high : ∀ x : SegIdx,
    ((x.setWidth 8 : Byte) >>> 4) &&& 0x0F#8 = ((0#1 ++ x.extractLsb' 4 3 : BitVec 4)).setWidth 8 := by
  decide +kernel

theorem segment_join : ∀ x : SegIdx, (x.extractLsb' 4 3 ++ x.extractLsb' 0 4 : BitVec 7) = x := by
  decide +kernel

/-! ## Command bytes -/

section
variable {c : Config} (h : c.wf = true)
include h

theorem decodeCommand_low (n : BitVec 4) : decodeCommand c (c.colLowBase ||| n.setWidth 8) = .instr (.setColLow n) := by
  obtain ⟨-, -, -, hl, -⟩ := Config.wf_parts h
  simp only [decodeCommand, low_or_high _ _ hl, low_or_low _ _ hl, if_true]

theorem decodeCommand_high (n : BitVec 4) :
    decodeCommand c (c.colHighBase ||| n.setWidth 8) = .instr (.setColHigh n) := by
  obtain ⟨-, -, -, -, hh, -, hne, -⟩ := Config.wf_parts h
  simp only [decodeCommand, low_or_high _ _ hh, low_or_low _ _ hh, if_true, if_neg (Ne.symm hne)]

theorem decodeCommand_page (p : PageIdx) : decodeCommand c (c.pageSelBase ||| p.setWidth 8) = .instr (.setPage p) := by
  obtain ⟨-, -, -, -, -, hp, -, h1, h2⟩ := Config.wf_parts h
  simp only [decodeCommand, page_or_nibble _ _ hp, page_or_high _ _ hp, page_or_low _ _ hp, if_neg h1, if_neg h2,
    if_true]

theorem decodeCommand_colLowByte (x : SegIdx) :
    decodeCommand c (colLowByte c (x.setWidth 8)) = .instr (.setColLow (x.extractLsb' 0 4)) := by
  rw [colLowByte, segment_low, decodeCommand_low h]

theorem decodeCommand_colHighByte (x : SegIdx) :
    decodeCommand c (colHighByte c (x.setWidth 8)) = .instr (.setColHigh (0#1 ++ x.extractLsb' 4 3)) := by
  rw [colHighByte, segment_high, decodeCommand_high h]

theorem decodeCommand_pageByte (p : PageIdx) :
    decodeCommand c (pageByte c (p.setWidth 8)) = .instr (.setPage p) := by
  rw [pageByte, decodeCommand_page h]

/-! ## Control bytes -/

omit h in
theorem decodeControl_stream : decodeControl c c.ctrlCmdStream = .instr .ctrlCmdStream := by
  simp [decodeControl]

theorem decodeControl_single : decodeControl c c.ctrlCmdSingle = .instr .ctrlCmdSingle := by
  obtain ⟨h1, -⟩ := Config.wf_parts h
  simp [decodeControl, Ne.symm h1]

theorem decodeControl_data : decodeControl c c.ctrlDataStream = .instr .ctrlDataStream := by
  obtain ⟨-, h1, h2, -⟩ := Config.wf_parts h
  simp [decodeControl, Ne.symm h1, Ne.symm h2]

end

/-! ## Command words -/

namespace CommandWord

variable (op : BitVec 3) (o : Operands)

theorem make_getLsbD (i : Nat) : (make op o).getLsbD i =
    if i < 3 then op.getLsbD i
    else if i < 8 then false
    else if i < 16 then o.page.getLsbD (i - 8)
    else if i < 24 then o.seg.getLsbD (i - 16)
    else if i < 32 then o.width.getLsbD (i - 24)
    else if i < 48 then o.len.getLsbD (i - 32)
    else false := by
  simp only [make, BitVec.getLsbD_append, BitVec.getLsbD_zero]
  by_cases h1 : i < 3
  · simp [h1]
  by_cases h2 : i < 8
  · have : i - 3 < 5 := by omega
    simp [h1, h2, this]
  by_cases h3 : i < 16
  · have a : ¬ i - 3 < 5 := by omega
    have b : i - 3 - 5 < 8 := by omega
    have e : i - 3 - 5 = i - 8 := by omega
    simp [h1, h2, h3, a, e]
    omega
  by_cases h4 : i < 24
  · have a : ¬ i - 3 < 5 := by omega
    have b : ¬ i - 3 - 5 < 8 := by omega
    have e : i - 3 - 5 - 8 = i - 16 := by omega
    have d : i - 16 < 8 := by omega
    simp only [h1, h2, h3, h4, a, b, d, e, if_true, if_false]
  by_cases h5 : i < 32
  · have a : ¬ i - 3 < 5 := by omega
    have b : ¬ i - 3 - 5 < 8 := by omega
    have d : ¬ i - 3 - 5 - 8 < 8 := by omega
    have e : i - 3 - 5 - 8 - 8 = i - 24 := by omega
    have d2 : i - 24 < 8 := by omega
    simp only [h1, h2, h3, h4, h5, a, b, d, d2, e, if_true, if_false]
  by_cases h6 : i < 48
  · have a : ¬ i - 3 < 5 := by omega
    have b : ¬ i - 3 - 5 < 8 := by omega
    have d : ¬ i - 3 - 5 - 8 < 8 := by omega
    have d2 : ¬ i - 3 - 5 - 8 - 8 < 8 := by omega
    have e : i - 3 - 5 - 8 - 8 - 8 = i - 32 := by omega
    have d3 : i - 32 < 16 := by omega
    simp only [h1, h2, h3, h4, h5, h6, a, b, d, d2, d3, e, if_true, if_false]
  · have a : ¬ i - 3 < 5 := by omega
    have b : ¬ i - 3 - 5 < 8 := by omega
    have d : ¬ i - 3 - 5 - 8 < 8 := by omega
    have d2 : ¬ i - 3 - 5 - 8 - 8 < 8 := by omega
    have d3 : ¬ i - 3 - 5 - 8 - 8 - 8 < 16 := by omega
    simp only [h1, h2, h3, h4, h5, h6, a, b, d, d2, d3, if_false]

@[simp] theorem op_make : (make op o).op = op := by
  ext i hi
  simp [CommandWord.op, make_getLsbD, hi, ← BitVec.getLsbD_eq_getElem]

@[simp] theorem rsv0_make : (make op o).rsv0 = 0#5 := by
  ext i hi
  have a : ¬ 3 + i < 3 := by omega
  have b : 3 + i < 8 := by omega
  simp [CommandWord.rsv0, make_getLsbD, ← BitVec.getLsbD_eq_getElem, a, b]

@[simp] theorem rsv1_make : (make op o).rsv1 = 0#16 := by
  ext i hi
  have a : ¬ 48 + i < 3 := by omega
  have b : ¬ 48 + i < 8 := by omega
  have d : ¬ 48 + i < 16 := by omega
  have e : ¬ 48 + i < 24 := by omega
  have f : ¬ 48 + i < 32 := by omega
  have g : ¬ 48 + i < 48 := by omega
  simp [CommandWord.rsv1, make_getLsbD, ← BitVec.getLsbD_eq_getElem, a, b, d, e, f, g]

@[simp] theorem reservedClear_make : (make op o).reservedClear = true := by
  simp [reservedClear]

@[simp] theorem operands_make : (make op o).operands = o := by
  obtain ⟨p, x, w, l⟩ := o
  simp only [operands, Operands.mk.injEq]
  refine ⟨?_, ?_, ?_, ?_⟩
  · ext i hi
    have a : ¬ 8 + i < 3 := by omega
    have b : ¬ 8 + i < 8 := by omega
    have d : 8 + i < 16 := by omega
    simp [make_getLsbD, ← BitVec.getLsbD_eq_getElem, a, d, hi]
  · ext i hi
    have a : ¬ 16 + i < 3 := by omega
    have b : ¬ 16 + i < 8 := by omega
    have d : ¬ 16 + i < 16 := by omega
    have e : 16 + i < 24 := by omega
    simp [make_getLsbD, ← BitVec.getLsbD_eq_getElem, a, b, e, hi]
  · ext i hi
    have a : ¬ 24 + i < 3 := by omega
    have b : ¬ 24 + i < 8 := by omega
    have d : ¬ 24 + i < 16 := by omega
    have e : ¬ 24 + i < 24 := by omega
    have f : 24 + i < 32 := by omega
    simp [make_getLsbD, ← BitVec.getLsbD_eq_getElem, a, b, d, f, hi]
  · ext i hi
    have a : ¬ 32 + i < 3 := by omega
    have b : ¬ 32 + i < 8 := by omega
    have d : ¬ 32 + i < 16 := by omega
    have e : ¬ 32 + i < 24 := by omega
    have f : ¬ 32 + i < 32 := by omega
    have g : 32 + i < 48 := by omega
    simp [make_getLsbD, ← BitVec.getLsbD_eq_getElem, a, b, d, e, g, hi]

end CommandWord

end Sys2Proof
end

