-- ==== Sys2Proof/Laws/Memory.lean ====
section
/-! SUPPORT. Laws of the byte memories: read after write, and every operation keeps the canonical form. The read laws
hold of every list, canonical or not. -/

namespace Sys2Proof.Machine.Memory

@[simp] theorem lookup_nil (a : Nat) : lookup [] a = none := rfl

theorem lookup_cons (b : Nat) (w : Byte) (m : Memory) (a : Nat) :
    lookup ((b, w) :: m) a = if a = b then some w else lookup m a := rfl

@[simp] theorem lookup_put_same (a : Nat) (v : Byte) (m : Memory) : (put a v m).lookup a = some v := by
  induction m with
  | nil => simp [put, lookup]
  | cons c m ih =>
    obtain ⟨b, w⟩ := c
    unfold put
    split
    · simp [lookup]
    · split
      · simp [lookup]
      · rename_i h
        simp [lookup, h, ih]

theorem lookup_put_other {a a' : Nat} (h : a' ≠ a) (v : Byte) (m : Memory) : (put a v m).lookup a' = m.lookup a' := by
  induction m with
  | nil => simp [put, lookup, h]
  | cons c m ih =>
    obtain ⟨b, w⟩ := c
    unfold put
    split
    · simp [lookup, h]
    · split
      · rename_i hb
        subst hb
        simp [lookup, h]
      · simp [lookup, ih]

theorem lookup_put (a a' : Nat) (v : Byte) (m : Memory) :
    (put a v m).lookup a' = if a' = a then some v else m.lookup a' := by
  split
  · rename_i h
    subst h
    exact lookup_put_same a' v m
  · rename_i h
    exact lookup_put_other h v m

@[simp] theorem lookup_erase_same (a : Nat) (m : Memory) : lookup (m.filter fun c => c.1 != a) a = none := by
  induction m with
  | nil => rfl
  | cons c m ih =>
    by_cases h : c.1 = a
    · simp [h, ih]
    · have h' : ¬ a = c.1 := fun e => h e.symm
      simp [h, lookup, h', ih]

theorem lookup_erase_other {a a' : Nat} (h : a' ≠ a) (m : Memory) :
    lookup (m.filter fun c => c.1 != a) a' = m.lookup a' := by
  induction m with
  | nil => rfl
  | cons c m ih =>
    by_cases hc : c.1 = a
    · obtain ⟨b, w⟩ := c
      simp [show b = a from hc, ih, lookup_cons, h]
    · simp [hc, lookup, ih]

/-- Read after write (20_memory.md R51: a cell holds exactly what was last written). -/
@[simp] theorem read_write_same (a : Nat) (v : Byte) (m : Memory) : (write a v m).read a = v := by
  unfold write read
  split
  · rename_i h
    simp [h]
  · simp

/-- A write leaves every other address alone. -/
theorem read_write_other {a a' : Nat} (h : a' ≠ a) (v : Byte) (m : Memory) : (write a v m).read a' = m.read a' := by
  unfold write read
  split
  · rw [lookup_erase_other h]
  · rw [lookup_put_other h]

theorem read_write (a a' : Nat) (v : Byte) (m : Memory) :
    (write a v m).read a' = if a' = a then v else m.read a' := by
  split
  · rename_i h
    subst h
    exact read_write_same a' v m
  · rename_i h
    exact read_write_other h v m

theorem mem_put {a : Nat} {v : Byte} {m : Memory} {c : Host.Cell} (h : c ∈ put a v m) : c = (a, v) ∨ c ∈ m := by
  induction m with
  | nil => exact .inl (by simpa [put] using h)
  | cons d m ih =>
    obtain ⟨b, w⟩ := d
    unfold put at h
    split at h
    · rcases List.mem_cons.mp h with h | h
      · exact .inl h
      · exact .inr h
    · split at h
      · rcases List.mem_cons.mp h with h | h
        · exact .inl h
        · exact .inr (List.mem_cons_of_mem _ h)
      · rcases List.mem_cons.mp h with h | h
        · exact .inr (by simp [h])
        · rcases ih h with h | h
          · exact .inl h
          · exact .inr (List.mem_cons_of_mem _ h)

theorem rising_put (a : Nat) (v : Byte) (m : Memory) (h : m.rising) : rising (put a v m) := by
  induction m with
  | nil => simp [put]
  | cons d m ih =>
    obtain ⟨b, w⟩ := d
    have hd := List.pairwise_cons.mp h
    unfold put
    split
    · rename_i hlt
      refine List.pairwise_cons.mpr ⟨fun c hc => ?_, h⟩
      rcases List.mem_cons.mp hc with rfl | hc
      · exact hlt
      · exact Nat.lt_trans hlt (hd.1 c hc)
    · split
      · rename_i heq
        subst heq
        exact List.pairwise_cons.mpr ⟨hd.1, hd.2⟩
      · rename_i hnlt hne
        refine List.pairwise_cons.mpr ⟨fun c hc => ?_, ih hd.2⟩
        rcases mem_put hc with rfl | hc
        · exact Nat.lt_of_le_of_ne (Nat.le_of_not_lt hnlt) (fun e => hne e.symm)
        · exact hd.1 c hc

/-- Every write to one of the 1024 cells keeps the Display Buffer's canonical form. -/
theorem wf_write {a : Nat} (ha : a < 1024) (v : Byte) {m : Memory} (h : m.wf) : wf (write a v m) := by
  unfold write
  split
  · exact ⟨h.1.filter _, fun c hc => h.2 c (List.mem_of_mem_filter hc)⟩
  · rename_i hv
    refine ⟨rising_put a v m h.1, fun c hc => ?_⟩
    rcases mem_put hc with rfl | hc
    · exact ⟨ha, hv⟩
    · exact h.2 c hc

/-- Every data byte the device takes keeps the canonical form of its memory. -/
theorem deviceWf_put {a : Nat} (ha : a < 1024) (v : Byte) {m : Memory} (h : m.deviceWf) : deviceWf (put a v m) := by
  refine ⟨rising_put a v m h.1, fun c hc => ?_⟩
  rcases mem_put hc with rfl | hc
  · exact ha
  · exact h.2 c hc

theorem cellAddr_lt (p : PageIdx) (s : SegIdx) : cellAddr p s < 1024 := by
  have := p.isLt
  have := s.isLt
  unfold cellAddr
  omega

/-- Different cells have different linear addresses (20_memory.md R52). -/
theorem cellAddr_inj {p q : PageIdx} {s t : SegIdx} : cellAddr p s = cellAddr q t ↔ p = q ∧ s = t := by
  have := s.isLt
  have := t.isLt
  unfold cellAddr
  constructor
  · intro h
    exact ⟨BitVec.eq_of_toNat_eq (by omega), BitVec.eq_of_toNat_eq (by omega)⟩
  · rintro ⟨rfl, rfl⟩
    rfl

theorem lookup_of_lt {b : Nat} {m : Memory} (h : ∀ c ∈ m, b < c.1) : lookup m b = none := by
  induction m with
  | nil => rfl
  | cons c m ih =>
    have hc := h c (by simp)
    have : ¬ b = c.1 := by omega
    obtain ⟨c1, c2⟩ := c
    simp only [lookup, this, if_false]
    exact ih fun d hd => h d (List.mem_cons_of_mem _ hd)

/-- Canonical memories with the same contents are the same list. -/
theorem wf_ext {m n : Memory} (hm : m.wf) (hn : n.wf) (h : ∀ a < 1024, m.read a = n.read a) : m = n := by
  induction m generalizing n with
  | nil =>
    cases n with
    | nil => rfl
    | cons d n =>
      obtain ⟨b, w⟩ := d
      have hd := hn.2 (b, w) (by simp)
      have := h b hd.1
      simp [read, lookup] at this
      exact absurd this.symm hd.2
  | cons c m ih =>
    obtain ⟨a, v⟩ := c
    have hc := hm.2 (a, v) (by simp)
    have hmp := List.pairwise_cons.mp hm.1
    have hmt : wf m := ⟨hmp.2, fun x hx => hm.2 x (List.mem_cons_of_mem _ hx)⟩
    have hma : lookup m a = none := lookup_of_lt hmp.1
    cases n with
    | nil =>
      have := h a hc.1
      simp [read, lookup] at this
      exact absurd this hc.2
    | cons d n =>
      obtain ⟨b, w⟩ := d
      have hd := hn.2 (b, w) (by simp)
      have hnp := List.pairwise_cons.mp hn.1
      have hnt : wf n := ⟨hnp.2, fun x hx => hn.2 x (List.mem_cons_of_mem _ hx)⟩
      have hnb : lookup n b = none := lookup_of_lt hnp.1
      have hab : a = b := by
        rcases Nat.lt_trichotomy a b with hlt | heq | hgt
        · have h1 := h a hc.1
          have hna : lookup n a = none := lookup_of_lt fun x hx => Nat.lt_trans hlt (hnp.1 x hx)
          simp [read, lookup, Nat.ne_of_lt hlt, hna] at h1
          exact absurd h1 hc.2
        · exact heq
        · have h1 := h b hd.1
          have hmb : lookup m b = none := lookup_of_lt fun x hx => Nat.lt_trans hgt (hmp.1 x hx)
          simp [read, lookup, Nat.ne_of_lt hgt, hmb] at h1
          exact absurd h1.symm hd.2
      subst hab
      have h1 := h a hc.1
      simp [read, lookup] at h1
      subst h1
      congr 1
      refine ih hmt hnt fun x hx => ?_
      by_cases hxa : x = a
      · subst hxa
        simp [read, hma, hnb]
      · have := h x hx
        simpa [read, lookup, hxa] using this

end Sys2Proof.Machine.Memory
end

