-- ==== Sys2Proof/Laws/Device.lean ====
section
/-! SUPPORT. What the device does with each of the three payloads, under a configuration that meets 00_scope.md R7, and
what a run of data bytes writes (20_memory.md R61 to R63, 30_encoding.md R97). -/

namespace Sys2Proof.Machine

namespace Device

/-! ## Single updates -/

@[simp] theorem setRx_gd (m : RxMode) (d : Device) : (d.setRx m).gd = d.gd := rfl
@[simp] theorem setRx_page (m : RxMode) (d : Device) : (d.setRx m).page = d.page := rfl
@[simp] theorem setRx_col (m : RxMode) (d : Device) : (d.setRx m).col = d.col := rfl
@[simp] theorem setRx_rx (m : RxMode) (d : Device) : (d.setRx m).rx = m := rfl
@[simp] theorem setRx_drawn (m : RxMode) (d : Device) : (d.setRx m).drawn = d.drawn := rfl

@[simp] theorem writeData_page (c : Config) (v : Byte) (d : Device) : (d.writeData c v).page = d.page := rfl
@[simp] theorem writeData_rx (c : Config) (v : Byte) (d : Device) : (d.writeData c v).rx = d.rx := rfl
@[simp] theorem writeData_gd (c : Config) (v : Byte) (d : Device) :
    (d.writeData c v).gd = Memory.put (cellAddr d.page d.col) v d.gd := rfl
@[simp] theorem writeData_col (c : Config) (v : Byte) (d : Device) : (d.writeData c v).col = d.nextCol c := rfl

theorem setColHigh_setColLow (x : SegIdx) (d : Device) :
    (d.setColLow (x.extractLsb' 0 4)).setColHigh (0#1 ++ x.extractLsb' 4 3) = { d with col := x } := by
  have h : ∀ x y : SegIdx, ((0#1 ++ x.extractLsb' 4 3 : BitVec 4).extractLsb' 0 3 ++
      (y.extractLsb' 4 3 ++ x.extractLsb' 0 4 : BitVec 7).extractLsb' 0 4 : BitVec 7) = x := by decide +kernel
  simp [setColLow, setColHigh, h x d.col]

/-! ## Receiving data -/

theorem recv_data {c : Config} {d : Device} (h : d.rx = .data) (b : Byte) : recv c d b = d.writeData c b := by
  simp [recv, h]

theorem foldl_recv_data (c : Config) (bytes : List Byte) (d : Device) (h : d.rx = .data) :
    bytes.foldl (recv c) d = bytes.foldl (fun e b => e.writeData c b) d := by
  induction bytes generalizing d with
  | nil => rfl
  | cons b bytes ih => simp only [List.foldl_cons, recv_data h, ih _ (show (d.writeData c b).rx = .data from h)]

/-- A run of data bytes. -/
def writeAll (c : Config) (bytes : List Byte) (d : Device) : Device := bytes.foldl (fun e b => e.writeData c b) d

@[simp] theorem writeAll_nil (c : Config) (d : Device) : writeAll c [] d = d := rfl

theorem writeAll_cons (c : Config) (b : Byte) (bytes : List Byte) (d : Device) :
    writeAll c (b :: bytes) d = writeAll c bytes (d.writeData c b) := rfl

@[simp] theorem writeAll_page (c : Config) (bytes : List Byte) (d : Device) : (writeAll c bytes d).page = d.page := by
  induction bytes generalizing d with
  | nil => rfl
  | cons b bytes ih => rw [writeAll_cons, ih]; rfl

theorem setRx_writeAll (c : Config) (m : RxMode) (bytes : List Byte) (d : Device) :
    (writeAll c bytes (d.setRx m)).setRx d.rx = writeAll c bytes d := by
  induction bytes generalizing d with
  | nil => rfl
  | cons b bytes ih => exact ih (d.writeData c b)

theorem nextCol_of_lt {c : Config} {d : Device} (h : d.col.toNat < 127) : (d.nextCol c).toNat = d.col.toNat + 1 := by
  have hne : ¬ d.col = 127#7 := fun e => by simp [e] at h
  simp only [nextCol, hne, if_false, BitVec.toNat_add, BitVec.toNat_ofNat]
  omega

/-- Where a run of data bytes that stays inside the row lands: cell `col + i` holds byte `i`, every other cell of the
device is as before (R62; 41_sequencer.md R155). -/
theorem writeAll_lookup (c : Config) (bytes : List Byte) (d : Device) (h : d.col.toNat + bytes.length ≤ 128) (a : Nat) :
    (writeAll c bytes d).gd.lookup a =
      if h' : 128 * d.page.toNat + d.col.toNat ≤ a ∧ a < 128 * d.page.toNat + d.col.toNat + bytes.length then
        some (bytes[a - (128 * d.page.toNat + d.col.toNat)]'(by omega))
      else d.gd.lookup a := by
  induction bytes generalizing d with
  | nil =>
    rw [dif_neg (by simp only [List.length_nil]; omega)]
    rfl
  | cons b bytes ih =>
    simp only [List.length_cons] at h
    rw [writeAll_cons]
    by_cases hlast : d.col.toNat = 127
    · have hb : bytes = [] := List.eq_nil_of_length_eq_zero (by omega)
      subst hb
      simp only [writeAll_nil, writeData_gd, Memory.lookup_put, cellAddr]
      by_cases ha : a = 128 * d.page.toNat + d.col.toNat
      · rw [if_pos ha, dif_pos (by simp only [List.length_cons, List.length_nil]; omega)]
        simp [ha]
      · rw [if_neg ha, dif_neg (by simp only [List.length_cons, List.length_nil]; omega)]
    · have hlt : d.col.toNat < 127 := by have := d.col.isLt; omega
      have hc : ((d.writeData c b).col).toNat = d.col.toNat + 1 := nextCol_of_lt hlt
      rw [ih (d.writeData c b) (by omega)]
      simp only [writeData_page, writeData_gd, Memory.lookup_put, cellAddr]
      by_cases ha : a = 128 * d.page.toNat + d.col.toNat
      · rw [dif_neg (by omega), if_pos ha, dif_pos (by simp only [List.length_cons]; omega)]
        simp [ha]
      · rw [if_neg ha]
        by_cases hin : 128 * d.page.toNat + d.col.toNat ≤ a ∧
            a < 128 * d.page.toNat + d.col.toNat + (bytes.length + 1)
        · rw [dif_pos (by omega), dif_pos (by simpa using hin)]
          have e : a - (128 * d.page.toNat + d.col.toNat) =
              a - (128 * d.page.toNat + (d.writeData c b).col.toNat) + 1 := by omega
          simp only [e, List.getElem_cons_succ]
        · rw [dif_neg (by omega), dif_neg (by simpa using hin)]

/-- A run of data bytes that ends before the last column leaves the counter after it. -/
theorem writeAll_col (c : Config) (bytes : List Byte) (d : Device) (h : d.col.toNat + bytes.length ≤ 127) :
    ((writeAll c bytes d).col).toNat = d.col.toNat + bytes.length := by
  induction bytes generalizing d with
  | nil => rfl
  | cons b bytes ih =>
    simp only [List.length_cons] at h
    have hc : ((d.writeData c b).col).toNat = d.col.toNat + 1 := nextCol_of_lt (by omega)
    rw [writeAll_cons, ih _ (by omega), hc, List.length_cons]
    omega

theorem writeAll_append (c : Config) (a b : List Byte) (d : Device) :
    writeAll c (a ++ b) d = writeAll c b (writeAll c a d) := by
  simp [writeAll]

/-- A run of data bytes that ends with the last column leaves the counter where COL_WRAP says (R62). -/
theorem writeAll_col_wrap {c : Config} {w : SegIdx} (hw : c.colWrap = .to w) (bytes : List Byte) (d : Device)
    (hne : bytes ≠ []) (h : d.col.toNat + bytes.length = 128) : (writeAll c bytes d).col = w := by
  induction bytes generalizing d with
  | nil => exact absurd rfl hne
  | cons b bytes ih =>
    rw [writeAll_cons]
    simp only [List.length_cons] at h
    by_cases hb : bytes = []
    · subst hb
      simp only [List.length_nil] at h
      have h127 : d.col = 127#7 := BitVec.eq_of_toNat_eq (by rw [BitVec.toNat_ofNat]; omega)
      rw [writeAll_nil, writeData_col, nextCol, if_pos h127, hw]
    · have hpos : 0 < bytes.length := List.length_pos_iff.mpr hb
      exact ih _ hb (by rw [writeData_col, nextCol_of_lt (by omega)]; omega)

/-- The linear addresses of a run of columns of one page. -/
theorem cellAddr_range (q p : PageIdx) (x : SegIdx) (c n : Nat) (h : c + n ≤ 128) :
    (128 * p.toNat + c ≤ cellAddr q x ∧ cellAddr q x < 128 * p.toNat + c + n) ↔
      (q = p ∧ c ≤ x.toNat ∧ x.toNat < c + n) := by
  have := x.isLt
  unfold cellAddr
  rw [← BitVec.toNat_inj]
  omega

@[simp] theorem cell?_setRx (d : Device) (m : RxMode) (q : PageIdx) (x : SegIdx) :
    (d.setRx m).cell? q x = d.cell? q x := rfl

/-- Where a run of data bytes that stays inside the row lands, by cells. -/
theorem writeAll_cell (c : Config) (bytes : List Byte) (d : Device) (h : d.col.toNat + bytes.length ≤ 128)
    (q : PageIdx) (x : SegIdx) : (writeAll c bytes d).cell? q x =
      if q = d.page ∧ d.col.toNat ≤ x.toNat ∧ x.toNat < d.col.toNat + bytes.length then
        bytes[x.toNat - d.col.toNat]?
      else d.cell? q x := by
  rw [cell?, writeAll_lookup c bytes d h]
  have r := cellAddr_range q d.page x d.col.toNat bytes.length h
  by_cases g : q = d.page ∧ d.col.toNat ≤ x.toNat ∧ x.toNat < d.col.toNat + bytes.length
  · rw [dif_pos (r.mpr g), if_pos g, ← List.getElem?_eq_getElem, g.1]
    congr 1
    unfold cellAddr
    omega
  · rw [dif_neg (fun k => g (r.mp k)), if_neg g]
    rfl

/-- A full row of zero bytes zeroes its page, and only it, when the column stands at 0 or wraps to 0; in the second case
the column is back where it stood (R156). -/
theorem writeAll_zeros {c : Config} {zeros : List Byte} (hz : zeros = List.replicate 128 0x00#8) (d : Device)
    (h : d.col = 0#7 ∨ c.colWrap = .to 0#7) :
    (∀ (q : PageIdx) (x : SegIdx),
      (writeAll c zeros d).cell? q x = if q = d.page then some 0x00#8 else d.cell? q x) ∧
    (c.colWrap = .to 0#7 → (writeAll c zeros d).col = d.col) := by
  have hc := d.col.isLt
  have hlen : ∀ n, (List.replicate n 0x00#8).length = n := fun n => List.length_replicate
  have hget : ∀ n i, i < n → (List.replicate n 0x00#8)[i]? = some 0x00#8 := fun n i hi => by
    rw [List.getElem?_replicate, if_pos hi]
  have hsplit : zeros = List.replicate (128 - d.col.toNat) 0x00#8 ++ List.replicate d.col.toNat 0x00#8 := by
    rw [hz, List.replicate_append_replicate]
    congr 1
    omega
  rw [hsplit, writeAll_append]
  generalize hn : 128 - d.col.toNat = n
  generalize hm : d.col.toNat = m at hc hn
  generalize he : writeAll c (List.replicate n 0x00#8) d = e
  have hep : e.page = d.page := by rw [← he, writeAll_page]
  have hcell : ∀ q x, e.cell? q x = if q = d.page ∧ m ≤ x.toNat ∧ x.toNat < m + n then some 0x00#8 else d.cell? q x := by
    intro q x
    rw [← he, writeAll_cell _ _ _ (by rw [hlen]; omega), hlen, hm]
    by_cases g : q = d.page ∧ m ≤ x.toNat ∧ x.toNat < m + n
    · rw [if_pos g, if_pos g, hget _ _ (by omega)]
    · rw [if_neg g, if_neg g]
  have hwrap : c.colWrap = .to 0#7 → e.col = 0#7 := fun hw => by
    rw [← he]
    refine writeAll_col_wrap hw _ d (fun g => ?_) (by rw [hlen]; omega)
    have := congrArg List.length g
    rw [hlen, List.length_nil] at this
    omega
  by_cases hm0 : m = 0
  · rw [hm0, List.replicate_zero, writeAll_nil]
    refine ⟨fun q x => ?_, fun hw => by rw [hwrap hw]; exact BitVec.eq_of_toNat_eq (hm.trans hm0).symm⟩
    have hx := x.isLt
    rw [hcell]
    by_cases hq : q = d.page
    · rw [if_pos ⟨hq, by omega, by omega⟩, if_pos hq]
    · rw [if_neg fun g => hq g.1, if_neg hq]
  · have hw : c.colWrap = .to 0#7 := h.resolve_left fun g => hm0 (by rw [← hm, g]; rfl)
    have h0 : e.col.toNat = 0 := by rw [hwrap hw]; rfl
    refine ⟨fun q x => ?_, fun _ => BitVec.eq_of_toNat_eq ?_⟩
    · have hx := x.isLt
      rw [writeAll_cell _ _ _ (by rw [h0, hlen]; omega), hlen, hep, h0, hcell]
      by_cases hq : q = d.page
      · by_cases hlt : x.toNat < m
        · rw [if_pos ⟨hq, by omega, by omega⟩, if_pos hq, hget _ _ (by omega)]
        · rw [if_neg (by omega), if_pos ⟨hq, by omega, by omega⟩, if_pos hq]
      · rw [if_neg fun g => hq g.1, if_neg fun g => hq g.1, if_neg hq]
    · rw [writeAll_col _ _ _ (by rw [h0, hlen]; omega), h0, hlen, hm]
      omega

/-! ## The three payloads -/

section
variable {c : Config} (h : c.wf = true)
include h

/-- The addressing sequence received whole (41_sequencer.md R154). -/
theorem receive_addr (p : PageIdx) (x : SegIdx) (d : Device) :
    d.receive c (addrPayload c p x) = { d with page := p, col := x, rx := .control } := by
  simp only [receive, addrPayload, frameFA, List.foldl_cons, List.foldl_nil]
  have e0 : recv c (d.setRx .control) c.ctrlCmdStream = d.setRx .commands := by
    simp [recv, control, decodeControl_stream, setRx]
  have e1 : recv c (d.setRx .commands) (colLowByte c (x.setWidth 8)) =
      (d.setColLow (x.extractLsb' 0 4)).setRx .commands := by
    simp [recv, command, decodeCommand_colLowByte h, commandTaken, setRx, setColLow]
  have e2 : ∀ e : Device, recv c (e.setRx .commands) (colHighByte c (x.setWidth 8)) =
      (e.setColHigh (0#1 ++ x.extractLsb' 4 3)).setRx .commands := by
    intro e
    simp [recv, command, decodeCommand_colHighByte h, commandTaken, setRx, setColHigh]
  have e3 : ∀ e : Device, recv c (e.setRx .commands) (pageByte c (p.setWidth 8)) = (e.setPage p).setRx .commands := by
    intro e
    simp [recv, command, decodeCommand_pageByte h, commandTaken, setRx, setPage]
  rw [e0, e1, e2, e3, setColHigh_setColLow]
  rfl

/-- The data-stream write received whole (R155). -/
theorem receive_data (bytes : List Byte) (d : Device) :
    d.receive c (frameFD c bytes) = (writeAll c bytes d).setRx .control := by
  have e0 : recv c (d.setRx .control) c.ctrlDataStream = d.setRx .data := by
    simp [recv, control, decodeControl_data h, setRx]
  simp only [receive, frameFD, List.foldl_cons, e0]
  rw [foldl_recv_data c bytes _ rfl]
  have := setRx_writeAll c .data bytes d
  unfold writeAll at this ⊢
  rw [← this]
  rfl

/-- A single-command group with a page and a data group, received whole. -/
theorem receive_single (p : PageIdx) (bytes : List Byte) (d : Device) :
    d.receive c (c.ctrlCmdSingle :: pageByte c (p.setWidth 8) :: c.ctrlDataStream :: bytes) =
      (writeAll c bytes (d.setPage p)).setRx .control := by
  have e0 : recv c (d.setRx .control) c.ctrlCmdSingle = d.setRx .oneCommand := by
    simp [recv, control, decodeControl_single h, setRx]
  have e1 : recv c (d.setRx .oneCommand) (pageByte c (p.setWidth 8)) = (d.setPage p).setRx .control := by
    simp [recv, command, decodeCommand_pageByte h, commandTaken, setRx, setPage]
  have e2 : recv c ((d.setPage p).setRx .control) c.ctrlDataStream = (d.setPage p).setRx .data := by
    simp [recv, control, decodeControl_data h, setRx]
  simp only [receive, List.foldl_cons, e0, e1, e2]
  rw [foldl_recv_data c _ _ rfl]
  have := setRx_writeAll c .data bytes (d.setPage p)
  unfold writeAll at this ⊢
  rw [← this]
  rfl

/-- The clear frame received whole (R156). -/
theorem receive_clear (p : PageIdx) (d : Device) :
    d.receive c (clearPayload c p) = (writeAll c (List.replicate 128 0x00#8) (d.setPage p)).setRx .control := by
  rw [clearPayload, frameFC, List.cons_append, List.cons_append, List.cons_append, List.nil_append, receive_single h]

/-- An addressing sequence to column 0 and a full row, both received whole: the page holds the row, every other page is as
before, and the column is where COL_WRAP puts it (41_sequencer.md R158). -/
theorem receive_page (p : PageIdx) (row : List Byte) (hl : row.length = 128) (d : Device) :
    (∀ (q : PageIdx) (x : SegIdx), ((d.receive c (addrPayload c p 0#7)).receive c (frameFD c row)).cell? q x =
      if q = p then row[x.toNat]? else d.cell? q x) ∧
    ((d.receive c (addrPayload c p 0#7)).receive c (frameFD c row)).page = p ∧
    ∀ w, c.colWrap = .to w → ((d.receive c (addrPayload c p 0#7)).receive c (frameFD c row)).col = w := by
  rw [receive_addr h, receive_data h]
  generalize he : ({ d with page := p, col := 0#7, rx := .control } : Device) = e
  have hp : e.page = p := by rw [← he]
  have hc : e.col.toNat = 0 := by rw [← he]; rfl
  have hd : ∀ q x, e.cell? q x = d.cell? q x := fun q x => by rw [← he]; rfl
  refine ⟨fun q x => ?_, by rw [setRx_page, writeAll_page, hp], fun w hw => ?_⟩
  · have hx := x.isLt
    rw [cell?_setRx, writeAll_cell _ _ _ (by omega), hp, hc, hl, hd]
    by_cases hq : q = p
    · rw [if_pos ⟨hq, by omega, by omega⟩, if_pos hq, Nat.sub_zero]
    · rw [if_neg fun g => hq g.1, if_neg hq]
  · rw [setRx_col]
    exact writeAll_col_wrap hw row e (fun g => by simp [g] at hl) (by omega)

end

/-! ## The canonical form of the device's memory -/

theorem gd_writeData {c : Config} {v : Byte} {d : Device} (h : d.gd.deviceWf) : (d.writeData c v).gd.deviceWf :=
  Memory.deviceWf_put (Memory.cellAddr_lt _ _) v h

theorem gd_command {c : Config} {b : Byte} {d : Device} (h : d.gd.deviceWf) : (d.command c b).gd.deviceWf := by
  unfold command
  split
  · exact h
  · exact h
  · exact h
  · exact ⟨List.Pairwise.nil, fun c hc => absurd hc (by simp [scramble])⟩

theorem gd_commandTaken {d : Device} (h : d.gd.deviceWf) : d.commandTaken.gd.deviceWf := by
  unfold commandTaken
  split <;> exact h

theorem gd_control {c : Config} {b : Byte} {d : Device} (h : d.gd.deviceWf) : (d.control c b).gd.deviceWf := by
  unfold control
  split
  · exact h
  · exact h
  · exact h
  · exact ⟨List.Pairwise.nil, fun c hc => absurd hc (by simp [scramble])⟩

theorem gd_recv {c : Config} {b : Byte} {d : Device} (h : d.gd.deviceWf) : (recv c d b).gd.deviceWf := by
  unfold recv
  split
  · exact gd_control h
  · exact gd_commandTaken (gd_command h)
  · exact gd_commandTaken (gd_command h)
  · exact gd_writeData h

/-- Whatever bytes a transaction delivers, the device's memory keeps its canonical form. -/
theorem gd_receive {c : Config} {bytes : List Byte} {d : Device} (h : d.gd.deviceWf) :
    (d.receive c bytes).gd.deviceWf := by
  have : ∀ (bytes : List Byte) (d : Device), d.gd.deviceWf → (bytes.foldl (recv c) d).gd.deviceWf := by
    intro bytes
    induction bytes with
    | nil => exact fun d h => h
    | cons b bytes ih => exact fun d h => ih _ (gd_recv h)
  exact this bytes _ h

end Device

end Sys2Proof.Machine
end

