-- ==== Sys2Proof/Laws/State.lean ====
section
/-! SUPPORT. What each update of the state does to each field, true by unfolding, so that no later proof unfolds one.
A transaction is one update here: its four calls together. -/

namespace Sys2Proof.Machine

variable (s : State)

@[simp] theorem setCell_cfg (p : PageIdx) (x : SegIdx) (v : Byte) : (s.setCell p x v).cfg = s.cfg := rfl
@[simp] theorem setCell_db (p : PageIdx) (x : SegIdx) (v : Byte) : (s.setCell p x v).db = s.db.write (cellAddr p x) v := rfl
@[simp] theorem setCell_rmp (p : PageIdx) (x : SegIdx) (v : Byte) : (s.setCell p x v).rmp = s.rmp := rfl
@[simp] theorem setCell_rdr (p : PageIdx) (x : SegIdx) (v : Byte) : (s.setCell p x v).rdr = s.rdr := rfl
@[simp] theorem setCell_seq (p : PageIdx) (x : SegIdx) (v : Byte) : (s.setCell p x v).seq = s.seq := rfl
@[simp] theorem setCell_latch (p : PageIdx) (x : SegIdx) (v : Byte) : (s.setCell p x v).latch = s.latch := rfl
@[simp] theorem setCell_res (p : PageIdx) (x : SegIdx) (v : Byte) : (s.setCell p x v).res = s.res := rfl
@[simp] theorem setCell_phase (p : PageIdx) (x : SegIdx) (v : Byte) : (s.setCell p x v).phase = s.phase := rfl
@[simp] theorem setCell_pos (p : PageIdx) (x : SegIdx) (v : Byte) : (s.setCell p x v).pos = s.pos := rfl
@[simp] theorem setCell_tx (p : PageIdx) (x : SegIdx) (v : Byte) : (s.setCell p x v).tx = s.tx := rfl
@[simp] theorem setCell_burst (p : PageIdx) (x : SegIdx) (v : Byte) : (s.setCell p x v).burst = s.burst := rfl
@[simp] theorem setCell_opb (p : PageIdx) (x : SegIdx) (v : Byte) : (s.setCell p x v).opb = s.opb := rfl
@[simp] theorem setCell_serial (p : PageIdx) (x : SegIdx) (v : Byte) : (s.setCell p x v).serial = s.serial := rfl
@[simp] theorem setCell_inbox (p : PageIdx) (x : SegIdx) (v : Byte) : (s.setCell p x v).inbox = s.inbox := rfl
@[simp] theorem setCell_answers (p : PageIdx) (x : SegIdx) (v : Byte) : (s.setCell p x v).answers = s.answers := rfl
@[simp] theorem setCell_drawn (p : PageIdx) (x : SegIdx) (v : Byte) : (s.setCell p x v).drawn = s.drawn := rfl
@[simp] theorem setCell_tr (p : PageIdx) (x : SegIdx) (v : Byte) : (s.setCell p x v).tr = s.tr := rfl
@[simp] theorem setCell_sl (p : PageIdx) (x : SegIdx) (v : Byte) : (s.setCell p x v).sl = s.sl := rfl
@[simp] theorem setCell_calls (p : PageIdx) (x : SegIdx) (v : Byte) : (s.setCell p x v).calls = s.calls := rfl
@[simp] theorem setCell_rsp (p : PageIdx) (x : SegIdx) (v : Byte) : (s.setCell p x v).rsp = s.rsp := rfl
@[simp] theorem setCell_dev (p : PageIdx) (x : SegIdx) (v : Byte) : (s.setCell p x v).dev = s.dev := rfl
@[simp] theorem setCell_copyOut (p : PageIdx) (x : SegIdx) (v : Byte) : (s.setCell p x v).copyOut = s.copyOut := rfl
@[simp] theorem setCell_rst (p : PageIdx) (x : SegIdx) (v : Byte) : (s.setCell p x v).rst = s.rst := rfl

@[simp] theorem goto_cfg (p : Pos) : (s.goto p).cfg = s.cfg := rfl
@[simp] theorem goto_db (p : Pos) : (s.goto p).db = s.db := rfl
@[simp] theorem goto_rmp (p : Pos) : (s.goto p).rmp = s.rmp := rfl
@[simp] theorem goto_rdr (p : Pos) : (s.goto p).rdr = s.rdr := rfl
@[simp] theorem goto_seq (p : Pos) : (s.goto p).seq = s.seq := rfl
@[simp] theorem goto_latch (p : Pos) : (s.goto p).latch = s.latch := rfl
@[simp] theorem goto_res (p : Pos) : (s.goto p).res = s.res := rfl
@[simp] theorem goto_phase (p : Pos) : (s.goto p).phase = s.phase := rfl
@[simp] theorem goto_pos (p : Pos) : (s.goto p).pos = p := rfl
@[simp] theorem goto_tx (p : Pos) : (s.goto p).tx = s.tx := rfl
@[simp] theorem goto_burst (p : Pos) : (s.goto p).burst = s.burst := rfl
@[simp] theorem goto_opb (p : Pos) : (s.goto p).opb = s.opb := rfl
@[simp] theorem goto_serial (p : Pos) : (s.goto p).serial = s.serial := rfl
@[simp] theorem goto_inbox (p : Pos) : (s.goto p).inbox = s.inbox := rfl
@[simp] theorem goto_answers (p : Pos) : (s.goto p).answers = s.answers := rfl
@[simp] theorem goto_drawn (p : Pos) : (s.goto p).drawn = s.drawn := rfl
@[simp] theorem goto_tr (p : Pos) : (s.goto p).tr = s.tr := rfl
@[simp] theorem goto_sl (p : Pos) : (s.goto p).sl = s.sl := rfl
@[simp] theorem goto_calls (p : Pos) : (s.goto p).calls = s.calls := rfl
@[simp] theorem goto_rsp (p : Pos) : (s.goto p).rsp = s.rsp := rfl
@[simp] theorem goto_dev (p : Pos) : (s.goto p).dev = s.dev := rfl
@[simp] theorem goto_copyOut (p : Pos) : (s.goto p).copyOut = s.copyOut := rfl
@[simp] theorem goto_rst (p : Pos) : (s.goto p).rst = s.rst := rfl

@[simp] theorem txBegin_cfg (payload : List Byte) : (txBegin payload s).cfg = s.cfg := rfl
@[simp] theorem txBegin_db (payload : List Byte) : (txBegin payload s).db = s.db := rfl
@[simp] theorem txBegin_rmp (payload : List Byte) : (txBegin payload s).rmp = s.rmp := rfl
@[simp] theorem txBegin_rdr (payload : List Byte) : (txBegin payload s).rdr = s.rdr := rfl
@[simp] theorem txBegin_seq (payload : List Byte) : (txBegin payload s).seq = s.seq := rfl
@[simp] theorem txBegin_latch (payload : List Byte) : (txBegin payload s).latch = s.latch := rfl
@[simp] theorem txBegin_res (payload : List Byte) : (txBegin payload s).res = s.res := rfl
@[simp] theorem txBegin_phase (payload : List Byte) : (txBegin payload s).phase = s.phase := rfl
@[simp] theorem txBegin_pos (payload : List Byte) : (txBegin payload s).pos = s.pos := rfl
@[simp] theorem txBegin_tx (payload : List Byte) : (txBegin payload s).tx =
    some ⟨(s.answer 0).handle, payload, .address⟩ := rfl
@[simp] theorem txBegin_burst (payload : List Byte) : (txBegin payload s).burst = s.burst := rfl
@[simp] theorem txBegin_opb (payload : List Byte) : (txBegin payload s).opb = s.opb := rfl
@[simp] theorem txBegin_serial (payload : List Byte) : (txBegin payload s).serial = s.serial := rfl
@[simp] theorem txBegin_inbox (payload : List Byte) : (txBegin payload s).inbox = s.inbox := rfl
@[simp] theorem txBegin_answers (payload : List Byte) : (txBegin payload s).answers = s.answers := rfl
@[simp] theorem txBegin_drawn (payload : List Byte) : (txBegin payload s).drawn = s.drawn := rfl
@[simp] theorem txBegin_tr (payload : List Byte) : (txBegin payload s).tr = s.tr := rfl
@[simp] theorem txBegin_sl (payload : List Byte) : (txBegin payload s).sl = s.sl := rfl
@[simp] theorem txBegin_calls (payload : List Byte) : (txBegin payload s).calls = s.calls ++ [.begin (s.answer 0).handle] := rfl
@[simp] theorem txBegin_rsp (payload : List Byte) : (txBegin payload s).rsp = s.rsp := rfl
@[simp] theorem txBegin_dev (payload : List Byte) : (txBegin payload s).dev = s.dev := rfl
@[simp] theorem txBegin_copyOut (payload : List Byte) : (txBegin payload s).copyOut = s.copyOut := rfl
@[simp] theorem txBegin_rst (payload : List Byte) : (txBegin payload s).rst = s.rst := rfl

@[simp] theorem accept_cfg (op : BitVec 3) (o : Operands) (rc : Bool) : (accept op o rc s).cfg = s.cfg := rfl
@[simp] theorem accept_db (op : BitVec 3) (o : Operands) (rc : Bool) : (accept op o rc s).db = s.db := rfl
@[simp] theorem accept_rmp (op : BitVec 3) (o : Operands) (rc : Bool) : (accept op o rc s).rmp = s.rmp := rfl
@[simp] theorem accept_rdr (op : BitVec 3) (o : Operands) (rc : Bool) : (accept op o rc s).rdr = s.rdr := rfl
@[simp] theorem accept_seq (op : BitVec 3) (o : Operands) (rc : Bool) : (accept op o rc s).seq = s.seq := rfl
@[simp] theorem accept_latch (op : BitVec 3) (o : Operands) (rc : Bool) : (accept op o rc s).latch = ⟨op, o.page, o.seg, o.width, o.len⟩ := rfl
@[simp] theorem accept_res (op : BitVec 3) (o : Operands) (rc : Bool) : (accept op o rc s).res = { s.res with anyfail := false } := rfl
@[simp] theorem accept_phase (op : BitVec 3) (o : Operands) (rc : Bool) : (accept op o rc s).phase = .check := rfl
@[simp] theorem accept_pos (op : BitVec 3) (o : Operands) (rc : Bool) : (accept op o rc s).pos = .checking rc := rfl
@[simp] theorem accept_tx (op : BitVec 3) (o : Operands) (rc : Bool) : (accept op o rc s).tx = s.tx := rfl
@[simp] theorem accept_burst (op : BitVec 3) (o : Operands) (rc : Bool) : (accept op o rc s).burst = [] := rfl
@[simp] theorem accept_opb (op : BitVec 3) (o : Operands) (rc : Bool) : (accept op o rc s).opb = s.opb := rfl
@[simp] theorem accept_serial (op : BitVec 3) (o : Operands) (rc : Bool) : (accept op o rc s).serial = s.serial := rfl
@[simp] theorem accept_inbox (op : BitVec 3) (o : Operands) (rc : Bool) : (accept op o rc s).inbox = s.inbox := rfl
@[simp] theorem accept_answers (op : BitVec 3) (o : Operands) (rc : Bool) : (accept op o rc s).answers = s.answers := rfl
@[simp] theorem accept_drawn (op : BitVec 3) (o : Operands) (rc : Bool) : (accept op o rc s).drawn = s.drawn := rfl
@[simp] theorem accept_tr (op : BitVec 3) (o : Operands) (rc : Bool) : (accept op o rc s).tr = [] := rfl
@[simp] theorem accept_sl (op : BitVec 3) (o : Operands) (rc : Bool) : (accept op o rc s).sl = [] := rfl
@[simp] theorem accept_calls (op : BitVec 3) (o : Operands) (rc : Bool) : (accept op o rc s).calls = s.calls := rfl
@[simp] theorem accept_rsp (op : BitVec 3) (o : Operands) (rc : Bool) : (accept op o rc s).rsp = s.rsp := rfl
@[simp] theorem accept_dev (op : BitVec 3) (o : Operands) (rc : Bool) : (accept op o rc s).dev = s.dev := rfl
@[simp] theorem accept_copyOut (op : BitVec 3) (o : Operands) (rc : Bool) : (accept op o rc s).copyOut = s.copyOut := rfl
@[simp] theorem accept_rst (op : BitVec 3) (o : Operands) (rc : Bool) : (accept op o rc s).rst = s.rst := rfl

@[simp] theorem reject_cfg (c : Cause) : (reject c s).cfg = s.cfg := rfl
@[simp] theorem reject_db (c : Cause) : (reject c s).db = s.db := rfl
@[simp] theorem reject_rmp (c : Cause) : (reject c s).rmp = s.rmp := rfl
@[simp] theorem reject_rdr (c : Cause) : (reject c s).rdr = s.rdr := rfl
@[simp] theorem reject_seq (c : Cause) : (reject c s).seq = s.seq := rfl
@[simp] theorem reject_latch (c : Cause) : (reject c s).latch = s.latch := rfl
@[simp] theorem reject_res (c : Cause) : (reject c s).res = s.res.reject c := rfl
@[simp] theorem reject_phase (c : Cause) : (reject c s).phase = .done := rfl
@[simp] theorem reject_pos (c : Cause) : (reject c s).pos = .finishing := rfl
@[simp] theorem reject_tx (c : Cause) : (reject c s).tx = s.tx := rfl
@[simp] theorem reject_burst (c : Cause) : (reject c s).burst = s.burst := rfl
@[simp] theorem reject_opb (c : Cause) : (reject c s).opb = s.opb := rfl
@[simp] theorem reject_serial (c : Cause) : (reject c s).serial = s.serial := rfl
@[simp] theorem reject_inbox (c : Cause) : (reject c s).inbox = s.inbox := rfl
@[simp] theorem reject_answers (c : Cause) : (reject c s).answers = s.answers := rfl
@[simp] theorem reject_drawn (c : Cause) : (reject c s).drawn = s.drawn := rfl
@[simp] theorem reject_tr (c : Cause) : (reject c s).tr = s.tr := rfl
@[simp] theorem reject_sl (c : Cause) : (reject c s).sl = s.sl := rfl
@[simp] theorem reject_calls (c : Cause) : (reject c s).calls = s.calls := rfl
@[simp] theorem reject_rsp (c : Cause) : (reject c s).rsp = s.rsp := rfl
@[simp] theorem reject_dev (c : Cause) : (reject c s).dev = s.dev := rfl
@[simp] theorem reject_copyOut (c : Cause) : (reject c s).copyOut = s.copyOut := rfl
@[simp] theorem reject_rst (c : Cause) : (reject c s).rst = s.rst := rfl

@[simp] theorem start_cfg (p : Pos) : (start p s).cfg = s.cfg := rfl
@[simp] theorem start_db (p : Pos) : (start p s).db = s.db := rfl
@[simp] theorem start_rmp (p : Pos) : (start p s).rmp = s.rmp := rfl
@[simp] theorem start_rdr (p : Pos) : (start p s).rdr = s.rdr := rfl
@[simp] theorem start_seq (p : Pos) : (start p s).seq = s.seq := rfl
@[simp] theorem start_latch (p : Pos) : (start p s).latch = s.latch := rfl
@[simp] theorem start_res (p : Pos) : (start p s).res = s.res := rfl
@[simp] theorem start_phase (p : Pos) : (start p s).phase = .run := rfl
@[simp] theorem start_pos (p : Pos) : (start p s).pos = p := rfl
@[simp] theorem start_tx (p : Pos) : (start p s).tx = s.tx := rfl
@[simp] theorem start_burst (p : Pos) : (start p s).burst = s.burst := rfl
@[simp] theorem start_opb (p : Pos) : (start p s).opb = s.opb := rfl
@[simp] theorem start_serial (p : Pos) : (start p s).serial = s.serial := rfl
@[simp] theorem start_inbox (p : Pos) : (start p s).inbox = s.inbox := rfl
@[simp] theorem start_answers (p : Pos) : (start p s).answers = s.answers := rfl
@[simp] theorem start_drawn (p : Pos) : (start p s).drawn = s.drawn := rfl
@[simp] theorem start_tr (p : Pos) : (start p s).tr = s.tr := rfl
@[simp] theorem start_sl (p : Pos) : (start p s).sl = s.sl := rfl
@[simp] theorem start_calls (p : Pos) : (start p s).calls = s.calls := rfl
@[simp] theorem start_rsp (p : Pos) : (start p s).rsp = s.rsp := rfl
@[simp] theorem start_dev (p : Pos) : (start p s).dev = s.dev := rfl
@[simp] theorem start_copyOut (p : Pos) : (start p s).copyOut = s.copyOut := rfl
@[simp] theorem start_rst (p : Pos) : (start p s).rst = s.rst := rfl

@[simp] theorem finish_cfg : (finish s).cfg = s.cfg := rfl
@[simp] theorem finish_db : (finish s).db = s.db := rfl
@[simp] theorem finish_rmp : (finish s).rmp = s.rmp := rfl
@[simp] theorem finish_rdr : (finish s).rdr = s.rdr := rfl
@[simp] theorem finish_seq : (finish s).seq = s.seq := rfl
@[simp] theorem finish_latch : (finish s).latch = s.latch := rfl
@[simp] theorem finish_res : (finish s).res = s.res.finish := rfl
@[simp] theorem finish_phase : (finish s).phase = .done := rfl
@[simp] theorem finish_pos : (finish s).pos = .finishing := rfl
@[simp] theorem finish_tx : (finish s).tx = s.tx := rfl
@[simp] theorem finish_burst : (finish s).burst = s.burst := rfl
@[simp] theorem finish_opb : (finish s).opb = s.opb := rfl
@[simp] theorem finish_serial : (finish s).serial = s.serial := rfl
@[simp] theorem finish_inbox : (finish s).inbox = s.inbox := rfl
@[simp] theorem finish_answers : (finish s).answers = s.answers := rfl
@[simp] theorem finish_drawn : (finish s).drawn = s.drawn := rfl
@[simp] theorem finish_tr : (finish s).tr = s.tr := rfl
@[simp] theorem finish_sl : (finish s).sl = s.sl := rfl
@[simp] theorem finish_calls : (finish s).calls = s.calls := rfl
@[simp] theorem finish_rsp : (finish s).rsp = s.rsp := rfl
@[simp] theorem finish_dev : (finish s).dev = s.dev := rfl
@[simp] theorem finish_copyOut : (finish s).copyOut = s.copyOut := rfl
@[simp] theorem finish_rst : (finish s).rst = s.rst := rfl

@[simp] theorem deliverDone_cfg : (deliverDone s).cfg = s.cfg := rfl
@[simp] theorem deliverDone_db : (deliverDone s).db = s.db := rfl
@[simp] theorem deliverDone_rmp : (deliverDone s).rmp = s.rmp := rfl
@[simp] theorem deliverDone_rdr : (deliverDone s).rdr = s.rdr := rfl
@[simp] theorem deliverDone_seq : (deliverDone s).seq = s.seq := rfl
@[simp] theorem deliverDone_latch : (deliverDone s).latch = s.latch := rfl
@[simp] theorem deliverDone_res : (deliverDone s).res = s.res := rfl
@[simp] theorem deliverDone_phase : (deliverDone s).phase = .idle := rfl
@[simp] theorem deliverDone_pos : (deliverDone s).pos = .rest := rfl
@[simp] theorem deliverDone_tx : (deliverDone s).tx = s.tx := rfl
@[simp] theorem deliverDone_burst : (deliverDone s).burst = s.burst := rfl
@[simp] theorem deliverDone_opb : (deliverDone s).opb = s.opb := rfl
@[simp] theorem deliverDone_serial : (deliverDone s).serial = s.serial + 1 := rfl
@[simp] theorem deliverDone_inbox : (deliverDone s).inbox = s.inbox := rfl
@[simp] theorem deliverDone_answers : (deliverDone s).answers = s.answers := rfl
@[simp] theorem deliverDone_drawn : (deliverDone s).drawn = s.drawn := rfl
@[simp] theorem deliverDone_tr : (deliverDone s).tr = s.tr := rfl
@[simp] theorem deliverDone_sl : (deliverDone s).sl = s.sl := rfl
@[simp] theorem deliverDone_calls : (deliverDone s).calls = s.calls := rfl
@[simp] theorem deliverDone_rsp : (deliverDone s).rsp = s.rsp ++ [.done s.res.code s.res.cause] := rfl
@[simp] theorem deliverDone_dev : (deliverDone s).dev = s.dev := rfl
@[simp] theorem deliverDone_copyOut : (deliverDone s).copyOut = s.copyOut := rfl
@[simp] theorem deliverDone_rst : (deliverDone s).rst = s.rst := rfl

@[simp] theorem cvInit_cfg : (cvInit s).cfg = s.cfg := rfl
@[simp] theorem cvInit_db : (cvInit s).db = s.db := rfl
@[simp] theorem cvInit_rmp : (cvInit s).rmp = ⟨0#6, 0#4, 7#3, 0#7, 0#3, 0#3, 0#10, s.rmp.sbyte⟩ := rfl
@[simp] theorem cvInit_rdr : (cvInit s).rdr = s.rdr := rfl
@[simp] theorem cvInit_seq : (cvInit s).seq = s.seq := rfl
@[simp] theorem cvInit_latch : (cvInit s).latch = s.latch := rfl
@[simp] theorem cvInit_res : (cvInit s).res = s.res := rfl
@[simp] theorem cvInit_phase : (cvInit s).phase = s.phase := rfl
@[simp] theorem cvInit_pos : (cvInit s).pos = s.pos := rfl
@[simp] theorem cvInit_tx : (cvInit s).tx = s.tx := rfl
@[simp] theorem cvInit_burst : (cvInit s).burst = s.burst := rfl
@[simp] theorem cvInit_opb : (cvInit s).opb = s.opb := rfl
@[simp] theorem cvInit_serial : (cvInit s).serial = s.serial := rfl
@[simp] theorem cvInit_inbox : (cvInit s).inbox = s.inbox := rfl
@[simp] theorem cvInit_answers : (cvInit s).answers = s.answers := rfl
@[simp] theorem cvInit_drawn : (cvInit s).drawn = s.drawn := rfl
@[simp] theorem cvInit_tr : (cvInit s).tr = s.tr := rfl
@[simp] theorem cvInit_sl : (cvInit s).sl = s.sl := rfl
@[simp] theorem cvInit_calls : (cvInit s).calls = s.calls := rfl
@[simp] theorem cvInit_rsp : (cvInit s).rsp = s.rsp := rfl
@[simp] theorem cvInit_dev : (cvInit s).dev = s.dev := rfl
@[simp] theorem cvInit_copyOut : (cvInit s).copyOut = s.copyOut := rfl
@[simp] theorem cvInit_rst : (cvInit s).rst = s.rst := rfl

@[simp] theorem cvFetch_cfg : (cvFetch s).cfg = s.cfg := rfl
@[simp] theorem cvFetch_db : (cvFetch s).db = s.db := rfl
@[simp] theorem cvFetch_rmp : (cvFetch s).rmp =
    { s.rmp with sbyte := s.opbByte s.rmp.source, sbit := 7#3 } := rfl
@[simp] theorem cvFetch_rdr : (cvFetch s).rdr = s.rdr := rfl
@[simp] theorem cvFetch_seq : (cvFetch s).seq = s.seq := rfl
@[simp] theorem cvFetch_latch : (cvFetch s).latch = s.latch := rfl
@[simp] theorem cvFetch_res : (cvFetch s).res = s.res := rfl
@[simp] theorem cvFetch_phase : (cvFetch s).phase = s.phase := rfl
@[simp] theorem cvFetch_pos : (cvFetch s).pos = s.pos := rfl
@[simp] theorem cvFetch_tx : (cvFetch s).tx = s.tx := rfl
@[simp] theorem cvFetch_burst : (cvFetch s).burst = s.burst := rfl
@[simp] theorem cvFetch_opb : (cvFetch s).opb = s.opb := rfl
@[simp] theorem cvFetch_serial : (cvFetch s).serial = s.serial := rfl
@[simp] theorem cvFetch_inbox : (cvFetch s).inbox = s.inbox := rfl
@[simp] theorem cvFetch_answers : (cvFetch s).answers = s.answers := rfl
@[simp] theorem cvFetch_drawn : (cvFetch s).drawn = s.drawn := rfl
@[simp] theorem cvFetch_tr : (cvFetch s).tr = s.tr := rfl
@[simp] theorem cvFetch_sl : (cvFetch s).sl = s.sl := rfl
@[simp] theorem cvFetch_calls : (cvFetch s).calls = s.calls := rfl
@[simp] theorem cvFetch_rsp : (cvFetch s).rsp = s.rsp := rfl
@[simp] theorem cvFetch_dev : (cvFetch s).dev = s.dev := rfl
@[simp] theorem cvFetch_copyOut : (cvFetch s).copyOut = s.copyOut := rfl
@[simp] theorem cvFetch_rst : (cvFetch s).rst = s.rst := rfl

@[simp] theorem cvCopy_cfg : (cvCopy s).cfg = s.cfg := rfl
@[simp] theorem cvCopy_db : (cvCopy s).db =
    s.db.write (cellAddr s.rmp.page s.rmp.seg)
      (copyBit s.rmp.sbyte s.rmp.sbit (s.cell s.rmp.page s.rmp.seg) s.rmp.dbit) := rfl
@[simp] theorem cvCopy_rmp : (cvCopy s).rmp = s.rmp := rfl
@[simp] theorem cvCopy_rdr : (cvCopy s).rdr = s.rdr := rfl
@[simp] theorem cvCopy_seq : (cvCopy s).seq = s.seq := rfl
@[simp] theorem cvCopy_latch : (cvCopy s).latch = s.latch := rfl
@[simp] theorem cvCopy_res : (cvCopy s).res = s.res := rfl
@[simp] theorem cvCopy_phase : (cvCopy s).phase = s.phase := rfl
@[simp] theorem cvCopy_pos : (cvCopy s).pos = s.pos := rfl
@[simp] theorem cvCopy_tx : (cvCopy s).tx = s.tx := rfl
@[simp] theorem cvCopy_burst : (cvCopy s).burst = s.burst := rfl
@[simp] theorem cvCopy_opb : (cvCopy s).opb = s.opb := rfl
@[simp] theorem cvCopy_serial : (cvCopy s).serial = s.serial := rfl
@[simp] theorem cvCopy_inbox : (cvCopy s).inbox = s.inbox := rfl
@[simp] theorem cvCopy_answers : (cvCopy s).answers = s.answers := rfl
@[simp] theorem cvCopy_drawn : (cvCopy s).drawn = s.drawn := rfl
@[simp] theorem cvCopy_tr : (cvCopy s).tr = s.tr := rfl
@[simp] theorem cvCopy_sl : (cvCopy s).sl = s.sl := rfl
@[simp] theorem cvCopy_calls : (cvCopy s).calls = s.calls := rfl
@[simp] theorem cvCopy_rsp : (cvCopy s).rsp = s.rsp := rfl
@[simp] theorem cvCopy_dev : (cvCopy s).dev = s.dev := rfl
@[simp] theorem cvCopy_copyOut : (cvCopy s).copyOut = s.copyOut := rfl
@[simp] theorem cvCopy_rst : (cvCopy s).rst = s.rst := rfl

@[simp] theorem cvSeg_cfg : (cvSeg s).cfg = s.cfg := rfl
@[simp] theorem cvSeg_db : (cvSeg s).db = s.db := rfl
@[simp] theorem cvSeg_rmp : (cvSeg s).rmp =
    { s.rmp with seg := s.rmp.seg + 1#7, sbit := s.rmp.sbit - 1#3 } := rfl
@[simp] theorem cvSeg_rdr : (cvSeg s).rdr = s.rdr := rfl
@[simp] theorem cvSeg_seq : (cvSeg s).seq = s.seq := rfl
@[simp] theorem cvSeg_latch : (cvSeg s).latch = s.latch := rfl
@[simp] theorem cvSeg_res : (cvSeg s).res = s.res := rfl
@[simp] theorem cvSeg_phase : (cvSeg s).phase = s.phase := rfl
@[simp] theorem cvSeg_pos : (cvSeg s).pos = s.pos := rfl
@[simp] theorem cvSeg_tx : (cvSeg s).tx = s.tx := rfl
@[simp] theorem cvSeg_burst : (cvSeg s).burst = s.burst := rfl
@[simp] theorem cvSeg_opb : (cvSeg s).opb = s.opb := rfl
@[simp] theorem cvSeg_serial : (cvSeg s).serial = s.serial := rfl
@[simp] theorem cvSeg_inbox : (cvSeg s).inbox = s.inbox := rfl
@[simp] theorem cvSeg_answers : (cvSeg s).answers = s.answers := rfl
@[simp] theorem cvSeg_drawn : (cvSeg s).drawn = s.drawn := rfl
@[simp] theorem cvSeg_tr : (cvSeg s).tr = s.tr := rfl
@[simp] theorem cvSeg_sl : (cvSeg s).sl = s.sl := rfl
@[simp] theorem cvSeg_calls : (cvSeg s).calls = s.calls := rfl
@[simp] theorem cvSeg_rsp : (cvSeg s).rsp = s.rsp := rfl
@[simp] theorem cvSeg_dev : (cvSeg s).dev = s.dev := rfl
@[simp] theorem cvSeg_copyOut : (cvSeg s).copyOut = s.copyOut := rfl
@[simp] theorem cvSeg_rst : (cvSeg s).rst = s.rst := rfl

@[simp] theorem cvIdx_cfg : (cvIdx s).cfg = s.cfg := rfl
@[simp] theorem cvIdx_db : (cvIdx s).db = s.db := rfl
@[simp] theorem cvIdx_rmp : (cvIdx s).rmp = { s.rmp with idx := s.rmp.idx + 1#4 } := rfl
@[simp] theorem cvIdx_rdr : (cvIdx s).rdr = s.rdr := rfl
@[simp] theorem cvIdx_seq : (cvIdx s).seq = s.seq := rfl
@[simp] theorem cvIdx_latch : (cvIdx s).latch = s.latch := rfl
@[simp] theorem cvIdx_res : (cvIdx s).res = s.res := rfl
@[simp] theorem cvIdx_phase : (cvIdx s).phase = s.phase := rfl
@[simp] theorem cvIdx_pos : (cvIdx s).pos = s.pos := rfl
@[simp] theorem cvIdx_tx : (cvIdx s).tx = s.tx := rfl
@[simp] theorem cvIdx_burst : (cvIdx s).burst = s.burst := rfl
@[simp] theorem cvIdx_opb : (cvIdx s).opb = s.opb := rfl
@[simp] theorem cvIdx_serial : (cvIdx s).serial = s.serial := rfl
@[simp] theorem cvIdx_inbox : (cvIdx s).inbox = s.inbox := rfl
@[simp] theorem cvIdx_answers : (cvIdx s).answers = s.answers := rfl
@[simp] theorem cvIdx_drawn : (cvIdx s).drawn = s.drawn := rfl
@[simp] theorem cvIdx_tr : (cvIdx s).tr = s.tr := rfl
@[simp] theorem cvIdx_sl : (cvIdx s).sl = s.sl := rfl
@[simp] theorem cvIdx_calls : (cvIdx s).calls = s.calls := rfl
@[simp] theorem cvIdx_rsp : (cvIdx s).rsp = s.rsp := rfl
@[simp] theorem cvIdx_dev : (cvIdx s).dev = s.dev := rfl
@[simp] theorem cvIdx_copyOut : (cvIdx s).copyOut = s.copyOut := rfl
@[simp] theorem cvIdx_rst : (cvIdx s).rst = s.rst := rfl

@[simp] theorem cvOff_cfg : (cvOff s).cfg = s.cfg := rfl
@[simp] theorem cvOff_db : (cvOff s).db = s.db := rfl
@[simp] theorem cvOff_rmp : (cvOff s).rmp = { s.rmp with off := s.rmp.off + 16#10, seg := 0#7 } := rfl
@[simp] theorem cvOff_rdr : (cvOff s).rdr = s.rdr := rfl
@[simp] theorem cvOff_seq : (cvOff s).seq = s.seq := rfl
@[simp] theorem cvOff_latch : (cvOff s).latch = s.latch := rfl
@[simp] theorem cvOff_res : (cvOff s).res = s.res := rfl
@[simp] theorem cvOff_phase : (cvOff s).phase = s.phase := rfl
@[simp] theorem cvOff_pos : (cvOff s).pos = s.pos := rfl
@[simp] theorem cvOff_tx : (cvOff s).tx = s.tx := rfl
@[simp] theorem cvOff_burst : (cvOff s).burst = s.burst := rfl
@[simp] theorem cvOff_opb : (cvOff s).opb = s.opb := rfl
@[simp] theorem cvOff_serial : (cvOff s).serial = s.serial := rfl
@[simp] theorem cvOff_inbox : (cvOff s).inbox = s.inbox := rfl
@[simp] theorem cvOff_answers : (cvOff s).answers = s.answers := rfl
@[simp] theorem cvOff_drawn : (cvOff s).drawn = s.drawn := rfl
@[simp] theorem cvOff_tr : (cvOff s).tr = s.tr := rfl
@[simp] theorem cvOff_sl : (cvOff s).sl = s.sl := rfl
@[simp] theorem cvOff_calls : (cvOff s).calls = s.calls := rfl
@[simp] theorem cvOff_rsp : (cvOff s).rsp = s.rsp := rfl
@[simp] theorem cvOff_dev : (cvOff s).dev = s.dev := rfl
@[simp] theorem cvOff_copyOut : (cvOff s).copyOut = s.copyOut := rfl
@[simp] theorem cvOff_rst : (cvOff s).rst = s.rst := rfl

@[simp] theorem cvDbit_cfg : (cvDbit s).cfg = s.cfg := rfl
@[simp] theorem cvDbit_db : (cvDbit s).db = s.db := rfl
@[simp] theorem cvDbit_rmp : (cvDbit s).rmp =
    { s.rmp with
        dbit := s.rmp.dbit + 1#3
        page := if s.rmp.dbit = 7#3 then s.rmp.page + 1#3 else s.rmp.page } := rfl
@[simp] theorem cvDbit_rdr : (cvDbit s).rdr = s.rdr := rfl
@[simp] theorem cvDbit_seq : (cvDbit s).seq = s.seq := rfl
@[simp] theorem cvDbit_latch : (cvDbit s).latch = s.latch := rfl
@[simp] theorem cvDbit_res : (cvDbit s).res = s.res := rfl
@[simp] theorem cvDbit_phase : (cvDbit s).phase = s.phase := rfl
@[simp] theorem cvDbit_pos : (cvDbit s).pos = s.pos := rfl
@[simp] theorem cvDbit_tx : (cvDbit s).tx = s.tx := rfl
@[simp] theorem cvDbit_burst : (cvDbit s).burst = s.burst := rfl
@[simp] theorem cvDbit_opb : (cvDbit s).opb = s.opb := rfl
@[simp] theorem cvDbit_serial : (cvDbit s).serial = s.serial := rfl
@[simp] theorem cvDbit_inbox : (cvDbit s).inbox = s.inbox := rfl
@[simp] theorem cvDbit_answers : (cvDbit s).answers = s.answers := rfl
@[simp] theorem cvDbit_drawn : (cvDbit s).drawn = s.drawn := rfl
@[simp] theorem cvDbit_tr : (cvDbit s).tr = s.tr := rfl
@[simp] theorem cvDbit_sl : (cvDbit s).sl = s.sl := rfl
@[simp] theorem cvDbit_calls : (cvDbit s).calls = s.calls := rfl
@[simp] theorem cvDbit_rsp : (cvDbit s).rsp = s.rsp := rfl
@[simp] theorem cvDbit_dev : (cvDbit s).dev = s.dev := rfl
@[simp] theorem cvDbit_copyOut : (cvDbit s).copyOut = s.copyOut := rfl
@[simp] theorem cvDbit_rst : (cvDbit s).rst = s.rst := rfl

@[simp] theorem cvRow_cfg : (cvRow s).cfg = s.cfg := rfl
@[simp] theorem cvRow_db : (cvRow s).db = s.db := rfl
@[simp] theorem cvRow_rmp : (cvRow s).rmp = { s.rmp with row := s.rmp.row + 1#6 } := rfl
@[simp] theorem cvRow_rdr : (cvRow s).rdr = s.rdr := rfl
@[simp] theorem cvRow_seq : (cvRow s).seq = s.seq := rfl
@[simp] theorem cvRow_latch : (cvRow s).latch = s.latch := rfl
@[simp] theorem cvRow_res : (cvRow s).res = s.res := rfl
@[simp] theorem cvRow_phase : (cvRow s).phase = s.phase := rfl
@[simp] theorem cvRow_pos : (cvRow s).pos = s.pos := rfl
@[simp] theorem cvRow_tx : (cvRow s).tx = s.tx := rfl
@[simp] theorem cvRow_burst : (cvRow s).burst = s.burst := rfl
@[simp] theorem cvRow_opb : (cvRow s).opb = s.opb := rfl
@[simp] theorem cvRow_serial : (cvRow s).serial = s.serial := rfl
@[simp] theorem cvRow_inbox : (cvRow s).inbox = s.inbox := rfl
@[simp] theorem cvRow_answers : (cvRow s).answers = s.answers := rfl
@[simp] theorem cvRow_drawn : (cvRow s).drawn = s.drawn := rfl
@[simp] theorem cvRow_tr : (cvRow s).tr = s.tr := rfl
@[simp] theorem cvRow_sl : (cvRow s).sl = s.sl := rfl
@[simp] theorem cvRow_calls : (cvRow s).calls = s.calls := rfl
@[simp] theorem cvRow_rsp : (cvRow s).rsp = s.rsp := rfl
@[simp] theorem cvRow_dev : (cvRow s).dev = s.dev := rfl
@[simp] theorem cvRow_copyOut : (cvRow s).copyOut = s.copyOut := rfl
@[simp] theorem cvRow_rst : (cvRow s).rst = s.rst := rfl
@[simp] theorem cvEnd_cfg : (cvEnd s).cfg = s.cfg := rfl
@[simp] theorem cvEnd_db : (cvEnd s).db = s.db := rfl
@[simp] theorem cvEnd_rmp : (cvEnd s).rmp = { s.rmp with sbyte := Config.freeSourceByte s.serial } := rfl
@[simp] theorem cvEnd_rdr : (cvEnd s).rdr = s.rdr := rfl
@[simp] theorem cvEnd_seq : (cvEnd s).seq = s.seq := rfl
@[simp] theorem cvEnd_latch : (cvEnd s).latch = s.latch := rfl
@[simp] theorem cvEnd_res : (cvEnd s).res = s.res := rfl
@[simp] theorem cvEnd_phase : (cvEnd s).phase = s.phase := rfl
@[simp] theorem cvEnd_pos : (cvEnd s).pos = s.pos := rfl
@[simp] theorem cvEnd_tx : (cvEnd s).tx = s.tx := rfl
@[simp] theorem cvEnd_burst : (cvEnd s).burst = s.burst := rfl
@[simp] theorem cvEnd_opb : (cvEnd s).opb = s.opb := rfl
@[simp] theorem cvEnd_serial : (cvEnd s).serial = s.serial := rfl
@[simp] theorem cvEnd_inbox : (cvEnd s).inbox = s.inbox := rfl
@[simp] theorem cvEnd_answers : (cvEnd s).answers = s.answers := rfl
@[simp] theorem cvEnd_drawn : (cvEnd s).drawn = s.drawn := rfl
@[simp] theorem cvEnd_tr : (cvEnd s).tr = s.tr := rfl
@[simp] theorem cvEnd_sl : (cvEnd s).sl = s.sl := rfl
@[simp] theorem cvEnd_calls : (cvEnd s).calls = s.calls := rfl
@[simp] theorem cvEnd_rsp : (cvEnd s).rsp = s.rsp := rfl
@[simp] theorem cvEnd_dev : (cvEnd s).dev = s.dev := rfl
@[simp] theorem cvEnd_copyOut : (cvEnd s).copyOut = s.copyOut := rfl
@[simp] theorem cvEnd_rst : (cvEnd s).rst = s.rst := rfl

@[simp] theorem flStart_cfg : (flStart s).cfg = s.cfg := rfl
@[simp] theorem flStart_db : (flStart s).db = s.db := rfl
@[simp] theorem flStart_rmp : (flStart s).rmp = s.rmp := rfl
@[simp] theorem flStart_rdr : (flStart s).rdr = { s.rdr with rseg := 0#7 } := rfl
@[simp] theorem flStart_seq : (flStart s).seq = s.seq := rfl
@[simp] theorem flStart_latch : (flStart s).latch = s.latch := rfl
@[simp] theorem flStart_res : (flStart s).res = s.res := rfl
@[simp] theorem flStart_phase : (flStart s).phase = s.phase := rfl
@[simp] theorem flStart_pos : (flStart s).pos = s.pos := rfl
@[simp] theorem flStart_tx : (flStart s).tx = s.tx := rfl
@[simp] theorem flStart_burst : (flStart s).burst = [] := rfl
@[simp] theorem flStart_opb : (flStart s).opb = s.opb := rfl
@[simp] theorem flStart_serial : (flStart s).serial = s.serial := rfl
@[simp] theorem flStart_inbox : (flStart s).inbox = s.inbox := rfl
@[simp] theorem flStart_answers : (flStart s).answers = s.answers := rfl
@[simp] theorem flStart_drawn : (flStart s).drawn = s.drawn := rfl
@[simp] theorem flStart_tr : (flStart s).tr = s.tr := rfl
@[simp] theorem flStart_sl : (flStart s).sl = s.sl := rfl
@[simp] theorem flStart_calls : (flStart s).calls = s.calls := rfl
@[simp] theorem flStart_rsp : (flStart s).rsp = s.rsp := rfl
@[simp] theorem flStart_dev : (flStart s).dev = s.dev := rfl
@[simp] theorem flStart_copyOut : (flStart s).copyOut = s.copyOut := rfl
@[simp] theorem flStart_rst : (flStart s).rst = s.rst := rfl

@[simp] theorem flRead_cfg : (flRead s).cfg = s.cfg := rfl
@[simp] theorem flRead_db : (flRead s).db = s.db := rfl
@[simp] theorem flRead_rmp : (flRead s).rmp = s.rmp := rfl
@[simp] theorem flRead_rdr : (flRead s).rdr = { s.rdr with rseg := s.rdr.rseg + 1#7 } := rfl
@[simp] theorem flRead_seq : (flRead s).seq = s.seq := rfl
@[simp] theorem flRead_latch : (flRead s).latch = s.latch := rfl
@[simp] theorem flRead_res : (flRead s).res = s.res := rfl
@[simp] theorem flRead_phase : (flRead s).phase = s.phase := rfl
@[simp] theorem flRead_pos : (flRead s).pos = s.pos := rfl
@[simp] theorem flRead_tx : (flRead s).tx = s.tx := rfl
@[simp] theorem flRead_burst : (flRead s).burst = s.burst ++ [s.cell s.rdr.rpage s.rdr.rseg] := rfl
@[simp] theorem flRead_opb : (flRead s).opb = s.opb := rfl
@[simp] theorem flRead_serial : (flRead s).serial = s.serial := rfl
@[simp] theorem flRead_inbox : (flRead s).inbox = s.inbox := rfl
@[simp] theorem flRead_answers : (flRead s).answers = s.answers := rfl
@[simp] theorem flRead_drawn : (flRead s).drawn = s.drawn := rfl
@[simp] theorem flRead_tr : (flRead s).tr = s.tr := rfl
@[simp] theorem flRead_sl : (flRead s).sl = s.sl := rfl
@[simp] theorem flRead_calls : (flRead s).calls = s.calls := rfl
@[simp] theorem flRead_rsp : (flRead s).rsp = s.rsp := rfl
@[simp] theorem flRead_dev : (flRead s).dev = s.dev := rfl
@[simp] theorem flRead_copyOut : (flRead s).copyOut = s.copyOut := rfl
@[simp] theorem flRead_rst : (flRead s).rst = s.rst := rfl

@[simp] theorem flInit_cfg : (flInit s).cfg = s.cfg := rfl
@[simp] theorem flInit_db : (flInit s).db = s.db := rfl
@[simp] theorem flInit_rmp : (flInit s).rmp = s.rmp := rfl
@[simp] theorem flInit_rdr : (flInit s).rdr = { s.rdr with rpage := 0#3 } := rfl
@[simp] theorem flInit_seq : (flInit s).seq = s.seq := rfl
@[simp] theorem flInit_latch : (flInit s).latch = s.latch := rfl
@[simp] theorem flInit_res : (flInit s).res = s.res := rfl
@[simp] theorem flInit_phase : (flInit s).phase = s.phase := rfl
@[simp] theorem flInit_pos : (flInit s).pos = s.pos := rfl
@[simp] theorem flInit_tx : (flInit s).tx = s.tx := rfl
@[simp] theorem flInit_burst : (flInit s).burst = s.burst := rfl
@[simp] theorem flInit_opb : (flInit s).opb = s.opb := rfl
@[simp] theorem flInit_serial : (flInit s).serial = s.serial := rfl
@[simp] theorem flInit_inbox : (flInit s).inbox = s.inbox := rfl
@[simp] theorem flInit_answers : (flInit s).answers = s.answers := rfl
@[simp] theorem flInit_drawn : (flInit s).drawn = s.drawn := rfl
@[simp] theorem flInit_tr : (flInit s).tr = s.tr := rfl
@[simp] theorem flInit_sl : (flInit s).sl = s.sl := rfl
@[simp] theorem flInit_calls : (flInit s).calls = s.calls := rfl
@[simp] theorem flInit_rsp : (flInit s).rsp = s.rsp := rfl
@[simp] theorem flInit_dev : (flInit s).dev = s.dev := rfl
@[simp] theorem flInit_copyOut : (flInit s).copyOut = s.copyOut := rfl
@[simp] theorem flInit_rst : (flInit s).rst = s.rst := rfl

@[simp] theorem flNext_cfg : (flNext s).cfg = s.cfg := rfl
@[simp] theorem flNext_db : (flNext s).db = s.db := rfl
@[simp] theorem flNext_rmp : (flNext s).rmp = s.rmp := rfl
@[simp] theorem flNext_rdr : (flNext s).rdr = { s.rdr with rpage := s.rdr.rpage + 1#3 } := rfl
@[simp] theorem flNext_seq : (flNext s).seq = s.seq := rfl
@[simp] theorem flNext_latch : (flNext s).latch = s.latch := rfl
@[simp] theorem flNext_res : (flNext s).res = s.res := rfl
@[simp] theorem flNext_phase : (flNext s).phase = s.phase := rfl
@[simp] theorem flNext_pos : (flNext s).pos = s.pos := rfl
@[simp] theorem flNext_tx : (flNext s).tx = s.tx := rfl
@[simp] theorem flNext_burst : (flNext s).burst = [] := rfl
@[simp] theorem flNext_opb : (flNext s).opb = s.opb := rfl
@[simp] theorem flNext_serial : (flNext s).serial = s.serial := rfl
@[simp] theorem flNext_inbox : (flNext s).inbox = s.inbox := rfl
@[simp] theorem flNext_answers : (flNext s).answers = s.answers := rfl
@[simp] theorem flNext_drawn : (flNext s).drawn = s.drawn := rfl
@[simp] theorem flNext_tr : (flNext s).tr = s.tr := rfl
@[simp] theorem flNext_sl : (flNext s).sl = s.sl := rfl
@[simp] theorem flNext_calls : (flNext s).calls = s.calls := rfl
@[simp] theorem flNext_rsp : (flNext s).rsp = s.rsp := rfl
@[simp] theorem flNext_dev : (flNext s).dev = s.dev := rfl
@[simp] theorem flNext_copyOut : (flNext s).copyOut = s.copyOut := rfl
@[simp] theorem flNext_rst : (flNext s).rst = s.rst := rfl

@[simp] theorem clInit_cfg : (clInit s).cfg = s.cfg := rfl
@[simp] theorem clInit_db : (clInit s).db = s.db := rfl
@[simp] theorem clInit_rmp : (clInit s).rmp = s.rmp := rfl
@[simp] theorem clInit_rdr : (clInit s).rdr = { s.rdr with rpage := 0#3 } := rfl
@[simp] theorem clInit_seq : (clInit s).seq = s.seq := rfl
@[simp] theorem clInit_latch : (clInit s).latch = s.latch := rfl
@[simp] theorem clInit_res : (clInit s).res = s.res := rfl
@[simp] theorem clInit_phase : (clInit s).phase = s.phase := rfl
@[simp] theorem clInit_pos : (clInit s).pos = s.pos := rfl
@[simp] theorem clInit_tx : (clInit s).tx = s.tx := rfl
@[simp] theorem clInit_burst : (clInit s).burst = s.burst := rfl
@[simp] theorem clInit_opb : (clInit s).opb = s.opb := rfl
@[simp] theorem clInit_serial : (clInit s).serial = s.serial := rfl
@[simp] theorem clInit_inbox : (clInit s).inbox = s.inbox := rfl
@[simp] theorem clInit_answers : (clInit s).answers = s.answers := rfl
@[simp] theorem clInit_drawn : (clInit s).drawn = s.drawn := rfl
@[simp] theorem clInit_tr : (clInit s).tr = s.tr := rfl
@[simp] theorem clInit_sl : (clInit s).sl = s.sl := rfl
@[simp] theorem clInit_calls : (clInit s).calls = s.calls := rfl
@[simp] theorem clInit_rsp : (clInit s).rsp = s.rsp := rfl
@[simp] theorem clInit_dev : (clInit s).dev = s.dev := rfl
@[simp] theorem clInit_copyOut : (clInit s).copyOut = s.copyOut := rfl
@[simp] theorem clInit_rst : (clInit s).rst = s.rst := rfl

@[simp] theorem clNext_cfg : (clNext s).cfg = s.cfg := rfl
@[simp] theorem clNext_db : (clNext s).db = s.db := rfl
@[simp] theorem clNext_rmp : (clNext s).rmp = s.rmp := rfl
@[simp] theorem clNext_rdr : (clNext s).rdr = { s.rdr with rpage := s.rdr.rpage + 1#3 } := rfl
@[simp] theorem clNext_seq : (clNext s).seq = s.seq := rfl
@[simp] theorem clNext_latch : (clNext s).latch = s.latch := rfl
@[simp] theorem clNext_res : (clNext s).res = s.res := rfl
@[simp] theorem clNext_phase : (clNext s).phase = s.phase := rfl
@[simp] theorem clNext_pos : (clNext s).pos = s.pos := rfl
@[simp] theorem clNext_tx : (clNext s).tx = s.tx := rfl
@[simp] theorem clNext_burst : (clNext s).burst = s.burst := rfl
@[simp] theorem clNext_opb : (clNext s).opb = s.opb := rfl
@[simp] theorem clNext_serial : (clNext s).serial = s.serial := rfl
@[simp] theorem clNext_inbox : (clNext s).inbox = s.inbox := rfl
@[simp] theorem clNext_answers : (clNext s).answers = s.answers := rfl
@[simp] theorem clNext_drawn : (clNext s).drawn = s.drawn := rfl
@[simp] theorem clNext_tr : (clNext s).tr = s.tr := rfl
@[simp] theorem clNext_sl : (clNext s).sl = s.sl := rfl
@[simp] theorem clNext_calls : (clNext s).calls = s.calls := rfl
@[simp] theorem clNext_rsp : (clNext s).rsp = s.rsp := rfl
@[simp] theorem clNext_dev : (clNext s).dev = s.dev := rfl
@[simp] theorem clNext_copyOut : (clNext s).copyOut = s.copyOut := rfl
@[simp] theorem clNext_rst : (clNext s).rst = s.rst := rfl

@[simp] theorem blInit_cfg : (blInit s).cfg = s.cfg := rfl
@[simp] theorem blInit_db : (blInit s).db = s.db := rfl
@[simp] theorem blInit_rmp : (blInit s).rmp = s.rmp := rfl
@[simp] theorem blInit_rdr : (blInit s).rdr = s.rdr := rfl
@[simp] theorem blInit_seq : (blInit s).seq = { s.seq with cidx := 0#16 } := rfl
@[simp] theorem blInit_latch : (blInit s).latch = s.latch := rfl
@[simp] theorem blInit_res : (blInit s).res = s.res := rfl
@[simp] theorem blInit_phase : (blInit s).phase = s.phase := rfl
@[simp] theorem blInit_pos : (blInit s).pos = s.pos := rfl
@[simp] theorem blInit_tx : (blInit s).tx = s.tx := rfl
@[simp] theorem blInit_burst : (blInit s).burst = [] := rfl
@[simp] theorem blInit_opb : (blInit s).opb = s.opb := rfl
@[simp] theorem blInit_serial : (blInit s).serial = s.serial := rfl
@[simp] theorem blInit_inbox : (blInit s).inbox = s.inbox := rfl
@[simp] theorem blInit_answers : (blInit s).answers = s.answers := rfl
@[simp] theorem blInit_drawn : (blInit s).drawn = s.drawn := rfl
@[simp] theorem blInit_tr : (blInit s).tr = s.tr := rfl
@[simp] theorem blInit_sl : (blInit s).sl = s.sl := rfl
@[simp] theorem blInit_calls : (blInit s).calls = s.calls := rfl
@[simp] theorem blInit_rsp : (blInit s).rsp = s.rsp := rfl
@[simp] theorem blInit_dev : (blInit s).dev = s.dev := rfl
@[simp] theorem blInit_copyOut : (blInit s).copyOut = s.copyOut := rfl
@[simp] theorem blInit_rst : (blInit s).rst = s.rst := rfl

@[simp] theorem blFetch_cfg : (blFetch s).cfg = s.cfg := rfl
@[simp] theorem blFetch_db : (blFetch s).db = s.db := rfl
@[simp] theorem blFetch_rmp : (blFetch s).rmp = s.rmp := rfl
@[simp] theorem blFetch_rdr : (blFetch s).rdr = s.rdr := rfl
@[simp] theorem blFetch_seq : (blFetch s).seq = { s.seq with cidx := s.seq.cidx + 1#16 } := rfl
@[simp] theorem blFetch_latch : (blFetch s).latch = s.latch := rfl
@[simp] theorem blFetch_res : (blFetch s).res = s.res := rfl
@[simp] theorem blFetch_phase : (blFetch s).phase = s.phase := rfl
@[simp] theorem blFetch_pos : (blFetch s).pos = s.pos := rfl
@[simp] theorem blFetch_tx : (blFetch s).tx = s.tx := rfl
@[simp] theorem blFetch_burst : (blFetch s).burst = s.burst ++ [s.opbByte s.seq.cidx.toNat] := rfl
@[simp] theorem blFetch_opb : (blFetch s).opb = s.opb := rfl
@[simp] theorem blFetch_serial : (blFetch s).serial = s.serial := rfl
@[simp] theorem blFetch_inbox : (blFetch s).inbox = s.inbox := rfl
@[simp] theorem blFetch_answers : (blFetch s).answers = s.answers := rfl
@[simp] theorem blFetch_drawn : (blFetch s).drawn = s.drawn := rfl
@[simp] theorem blFetch_tr : (blFetch s).tr = s.tr := rfl
@[simp] theorem blFetch_sl : (blFetch s).sl = s.sl := rfl
@[simp] theorem blFetch_calls : (blFetch s).calls = s.calls := rfl
@[simp] theorem blFetch_rsp : (blFetch s).rsp = s.rsp := rfl
@[simp] theorem blFetch_dev : (blFetch s).dev = s.dev := rfl
@[simp] theorem blFetch_copyOut : (blFetch s).copyOut = s.copyOut := rfl
@[simp] theorem blFetch_rst : (blFetch s).rst = s.rst := rfl

@[simp] theorem blEnd_cfg : (blEnd s).cfg = s.cfg := rfl
@[simp] theorem blEnd_db : (blEnd s).db = s.db := rfl
@[simp] theorem blEnd_rmp : (blEnd s).rmp = s.rmp := rfl
@[simp] theorem blEnd_rdr : (blEnd s).rdr = s.rdr := rfl
@[simp] theorem blEnd_seq : (blEnd s).seq = s.seq := rfl
@[simp] theorem blEnd_latch : (blEnd s).latch = s.latch := rfl
@[simp] theorem blEnd_res : (blEnd s).res = s.res := rfl
@[simp] theorem blEnd_phase : (blEnd s).phase = s.phase := rfl
@[simp] theorem blEnd_pos : (blEnd s).pos = s.pos := rfl
@[simp] theorem blEnd_tx : (blEnd s).tx = s.tx := rfl
@[simp] theorem blEnd_burst : (blEnd s).burst = [] := rfl
@[simp] theorem blEnd_opb : (blEnd s).opb = s.opb := rfl
@[simp] theorem blEnd_serial : (blEnd s).serial = s.serial := rfl
@[simp] theorem blEnd_inbox : (blEnd s).inbox = s.inbox := rfl
@[simp] theorem blEnd_answers : (blEnd s).answers = s.answers := rfl
@[simp] theorem blEnd_drawn : (blEnd s).drawn = s.drawn := rfl
@[simp] theorem blEnd_tr : (blEnd s).tr = s.tr := rfl
@[simp] theorem blEnd_sl : (blEnd s).sl = s.sl := rfl
@[simp] theorem blEnd_calls : (blEnd s).calls = s.calls := rfl
@[simp] theorem blEnd_rsp : (blEnd s).rsp = s.rsp := rfl
@[simp] theorem blEnd_dev : (blEnd s).dev = s.dev := rfl
@[simp] theorem blEnd_copyOut : (blEnd s).copyOut = s.copyOut := rfl
@[simp] theorem blEnd_rst : (blEnd s).rst = s.rst := rfl

@[simp] theorem teInit_cfg : (teInit s).cfg = s.cfg := rfl
@[simp] theorem teInit_db : (teInit s).db = s.db := rfl
@[simp] theorem teInit_rmp : (teInit s).rmp = s.rmp := rfl
@[simp] theorem teInit_rdr : (teInit s).rdr = s.rdr := rfl
@[simp] theorem teInit_seq : (teInit s).seq = ⟨0#3, 0#16, 0#3⟩ := rfl
@[simp] theorem teInit_latch : (teInit s).latch = s.latch := rfl
@[simp] theorem teInit_res : (teInit s).res = s.res := rfl
@[simp] theorem teInit_phase : (teInit s).phase = s.phase := rfl
@[simp] theorem teInit_pos : (teInit s).pos = s.pos := rfl
@[simp] theorem teInit_tx : (teInit s).tx = s.tx := rfl
@[simp] theorem teInit_burst : (teInit s).burst = [] := rfl
@[simp] theorem teInit_opb : (teInit s).opb = s.opb := rfl
@[simp] theorem teInit_serial : (teInit s).serial = s.serial := rfl
@[simp] theorem teInit_inbox : (teInit s).inbox = s.inbox := rfl
@[simp] theorem teInit_answers : (teInit s).answers = s.answers := rfl
@[simp] theorem teInit_drawn : (teInit s).drawn = s.drawn := rfl
@[simp] theorem teInit_tr : (teInit s).tr = s.tr := rfl
@[simp] theorem teInit_sl : (teInit s).sl = s.sl := rfl
@[simp] theorem teInit_calls : (teInit s).calls = s.calls := rfl
@[simp] theorem teInit_rsp : (teInit s).rsp = s.rsp := rfl
@[simp] theorem teInit_dev : (teInit s).dev = s.dev := rfl
@[simp] theorem teInit_copyOut : (teInit s).copyOut = s.copyOut := rfl
@[simp] theorem teInit_rst : (teInit s).rst = s.rst := rfl

@[simp] theorem teAdvance_cfg : (teAdvance s).cfg = s.cfg := rfl
@[simp] theorem teAdvance_db : (teAdvance s).db = s.db := rfl
@[simp] theorem teAdvance_rmp : (teAdvance s).rmp = s.rmp := rfl
@[simp] theorem teAdvance_rdr : (teAdvance s).rdr = s.rdr := rfl
@[simp] theorem teAdvance_seq : (teAdvance s).seq = { s.seq with curPage := s.seq.curPage + 1#3 } := rfl
@[simp] theorem teAdvance_latch : (teAdvance s).latch = s.latch := rfl
@[simp] theorem teAdvance_res : (teAdvance s).res = s.res := rfl
@[simp] theorem teAdvance_phase : (teAdvance s).phase = s.phase := rfl
@[simp] theorem teAdvance_pos : (teAdvance s).pos = s.pos := rfl
@[simp] theorem teAdvance_tx : (teAdvance s).tx = s.tx := rfl
@[simp] theorem teAdvance_burst : (teAdvance s).burst = s.burst := rfl
@[simp] theorem teAdvance_opb : (teAdvance s).opb = s.opb := rfl
@[simp] theorem teAdvance_serial : (teAdvance s).serial = s.serial := rfl
@[simp] theorem teAdvance_inbox : (teAdvance s).inbox = s.inbox := rfl
@[simp] theorem teAdvance_answers : (teAdvance s).answers = s.answers := rfl
@[simp] theorem teAdvance_drawn : (teAdvance s).drawn = s.drawn := rfl
@[simp] theorem teAdvance_tr : (teAdvance s).tr = s.tr := rfl
@[simp] theorem teAdvance_sl : (teAdvance s).sl = s.sl := rfl
@[simp] theorem teAdvance_calls : (teAdvance s).calls = s.calls := rfl
@[simp] theorem teAdvance_rsp : (teAdvance s).rsp = s.rsp := rfl
@[simp] theorem teAdvance_dev : (teAdvance s).dev = s.dev := rfl
@[simp] theorem teAdvance_copyOut : (teAdvance s).copyOut = s.copyOut := rfl
@[simp] theorem teAdvance_rst : (teAdvance s).rst = s.rst := rfl

@[simp] theorem teGlyph_cfg : (teGlyph s).cfg = s.cfg := rfl
@[simp] theorem teGlyph_db : (teGlyph s).db = s.db := rfl
@[simp] theorem teGlyph_rmp : (teGlyph s).rmp = s.rmp := rfl
@[simp] theorem teGlyph_rdr : (teGlyph s).rdr = s.rdr := rfl
@[simp] theorem teGlyph_seq : (teGlyph s).seq = { s.seq with gidx := s.seq.gidx + 1#3 } := rfl
@[simp] theorem teGlyph_latch : (teGlyph s).latch = s.latch := rfl
@[simp] theorem teGlyph_res : (teGlyph s).res = s.res := rfl
@[simp] theorem teGlyph_phase : (teGlyph s).phase = s.phase := rfl
@[simp] theorem teGlyph_pos : (teGlyph s).pos = s.pos := rfl
@[simp] theorem teGlyph_tx : (teGlyph s).tx = s.tx := rfl
@[simp] theorem teGlyph_burst : (teGlyph s).burst = s.burst ++ [Config.glyph s.char s.seq.gidx] := rfl
@[simp] theorem teGlyph_opb : (teGlyph s).opb = s.opb := rfl
@[simp] theorem teGlyph_serial : (teGlyph s).serial = s.serial := rfl
@[simp] theorem teGlyph_inbox : (teGlyph s).inbox = s.inbox := rfl
@[simp] theorem teGlyph_answers : (teGlyph s).answers = s.answers := rfl
@[simp] theorem teGlyph_drawn : (teGlyph s).drawn = s.drawn := rfl
@[simp] theorem teGlyph_tr : (teGlyph s).tr = s.tr := rfl
@[simp] theorem teGlyph_sl : (teGlyph s).sl = s.sl := rfl
@[simp] theorem teGlyph_calls : (teGlyph s).calls = s.calls := rfl
@[simp] theorem teGlyph_rsp : (teGlyph s).rsp = s.rsp := rfl
@[simp] theorem teGlyph_dev : (teGlyph s).dev = s.dev := rfl
@[simp] theorem teGlyph_copyOut : (teGlyph s).copyOut = s.copyOut := rfl
@[simp] theorem teGlyph_rst : (teGlyph s).rst = s.rst := rfl

@[simp] theorem teNext_cfg : (teNext s).cfg = s.cfg := rfl
@[simp] theorem teNext_db : (teNext s).db = s.db := rfl
@[simp] theorem teNext_rmp : (teNext s).rmp = s.rmp := rfl
@[simp] theorem teNext_rdr : (teNext s).rdr = s.rdr := rfl
@[simp] theorem teNext_seq : (teNext s).seq = { s.seq with cidx := s.seq.cidx + 1#16 } := rfl
@[simp] theorem teNext_latch : (teNext s).latch = s.latch := rfl
@[simp] theorem teNext_res : (teNext s).res = s.res := rfl
@[simp] theorem teNext_phase : (teNext s).phase = s.phase := rfl
@[simp] theorem teNext_pos : (teNext s).pos = s.pos := rfl
@[simp] theorem teNext_tx : (teNext s).tx = s.tx := rfl
@[simp] theorem teNext_burst : (teNext s).burst = [] := rfl
@[simp] theorem teNext_opb : (teNext s).opb = s.opb := rfl
@[simp] theorem teNext_serial : (teNext s).serial = s.serial := rfl
@[simp] theorem teNext_inbox : (teNext s).inbox = s.inbox := rfl
@[simp] theorem teNext_answers : (teNext s).answers = s.answers := rfl
@[simp] theorem teNext_drawn : (teNext s).drawn = s.drawn := rfl
@[simp] theorem teNext_tr : (teNext s).tr = s.tr := rfl
@[simp] theorem teNext_sl : (teNext s).sl = s.sl := rfl
@[simp] theorem teNext_calls : (teNext s).calls = s.calls := rfl
@[simp] theorem teNext_rsp : (teNext s).rsp = s.rsp := rfl
@[simp] theorem teNext_dev : (teNext s).dev = s.dev := rfl
@[simp] theorem teNext_copyOut : (teNext s).copyOut = s.copyOut := rfl
@[simp] theorem teNext_rst : (teNext s).rst = s.rst := rfl

@[simp] theorem txn_cfg (payload : List Byte) : (txn payload s).cfg = s.cfg := rfl
@[simp] theorem txn_db (payload : List Byte) : (txn payload s).db = s.db := rfl
@[simp] theorem txn_rmp (payload : List Byte) : (txn payload s).rmp = s.rmp := rfl
@[simp] theorem txn_rdr (payload : List Byte) : (txn payload s).rdr = s.rdr := rfl
@[simp] theorem txn_seq (payload : List Byte) : (txn payload s).seq = s.seq := rfl
@[simp] theorem txn_latch (payload : List Byte) : (txn payload s).latch = s.latch := rfl
@[simp] theorem txn_res (payload : List Byte) : (txn payload s).res = s.res.note (s.answer 0).status := rfl
@[simp] theorem txn_phase (payload : List Byte) : (txn payload s).phase = s.phase := rfl
@[simp] theorem txn_pos (payload : List Byte) : (txn payload s).pos = s.pos := rfl
@[simp] theorem txn_tx (payload : List Byte) : (txn payload s).tx = none := rfl
@[simp] theorem txn_burst (payload : List Byte) : (txn payload s).burst = s.burst := rfl
@[simp] theorem txn_opb (payload : List Byte) : (txn payload s).opb = s.opb := rfl
@[simp] theorem txn_serial (payload : List Byte) : (txn payload s).serial = s.serial := rfl
@[simp] theorem txn_inbox (payload : List Byte) : (txn payload s).inbox = s.inbox := rfl
@[simp] theorem txn_answers (payload : List Byte) : (txn payload s).answers = s.answers.tail := rfl
@[simp] theorem txn_drawn (payload : List Byte) : (txn payload s).drawn = s.drawn + 1 := rfl
@[simp] theorem txn_tr (payload : List Byte) : (txn payload s).tr = s.tr ++ [payload] := rfl
@[simp] theorem txn_sl (payload : List Byte) : (txn payload s).sl = s.sl ++ [(s.answer 0).status] := rfl
@[simp] theorem txn_calls (payload : List Byte) : (txn payload s).calls =
    s.calls ++ [.begin (s.answer 0).handle, .address (s.answer 0).handle s.cfg.devAddr .write,
      .bytes (s.answer 0).handle payload, .finish (s.answer 0).handle (s.answer 0).status] := by
  simp [txn, txCall, txBegin, txAddress, txBytes, txEnd, State.answer]
@[simp] theorem txn_rsp (payload : List Byte) : (txn payload s).rsp = s.rsp ++ [.ts s.sl.length (s.answer 0).status] := rfl
@[simp] theorem txn_dev (payload : List Byte) : (txn payload s).dev = s.dev.receive s.cfg (delivered (s.answer 0) payload) := rfl
@[simp] theorem txn_copyOut (payload : List Byte) : (txn payload s).copyOut = s.copyOut := rfl
@[simp] theorem txn_rst (payload : List Byte) : (txn payload s).rst = s.rst := rfl

end Sys2Proof.Machine
end

