-- ==== Sys2Proof/Laws/Ops.lean ====
section
/-! SUPPORT. The shared operations, each said once: what a transaction and a run of transactions do to everything on the
bus side (`Sends`), and what an operation that is accepted, rejected or ended leaves (`Ended`, `State.rejectedWith`). -/

namespace Sys2Proof.Machine

/-! ## Display Buffer cells -/

/-- Reading a cell after a write (20_memory.md R51). -/
theorem cell_setCell (s : State) (p q : PageIdx) (x y : SegIdx) (v : Byte) :
    (s.setCell p x v).cell q y = if q = p ∧ y = x then v else s.cell q y := by
  simp only [State.cell, setCell_db, Memory.read_write, Memory.cellAddr_inj]

theorem setCell_wf {s : State} (h : s.db.wf) (p : PageIdx) (x : SegIdx) (v : Byte) : (s.setCell p x v).db.wf :=
  Memory.wf_write (Memory.cellAddr_lt p x) v h

/-! ## The transport's answers -/

theorem answer_congr {s t : State} (ha : t.answers = s.answers) (hd : t.drawn = s.drawn) (k : Nat) :
    t.answer k = s.answer k := by
  simp only [State.answer, ha, hd]

/-- After `n` answers have been drawn the next one is the one after them. -/
theorem answer_drop {s t : State} {n : Nat} (ha : t.answers = s.answers.drop n) (hd : t.drawn = s.drawn + n) (k : Nat) :
    t.answer k = s.answer (n + k) := by
  simp only [State.answer, ha, hd, List.getElem?_drop, Nat.add_assoc]

@[simp] theorem answer_txn (payload : List Byte) (s : State) (k : Nat) : (txn payload s).answer k = s.answer (1 + k) :=
  answer_drop (by simp) (by simp) k

/-! ## Runs of transactions -/

/-- From `s` to `t` exactly the transactions `payloads` were made, and nothing else happened on the bus side, to the
command latch or to the controller. -/
structure Sends (payloads : List (List Byte)) (s t : State) : Prop where
  trace    : t.tr = s.tr ++ payloads
  statuses : t.sl = s.sl ++ s.statuses payloads.length
  events   : t.rsp = s.rsp ++ (List.range payloads.length).map (fun k => Event.ts (s.sl.length + k) (s.answer k).status)
  calls    : t.calls = s.calls ++ s.callsFor payloads
  device   : t.dev = s.deviceAfter payloads
  result   : t.res = { s.res with anyfail := s.res.anyfail || (s.statuses payloads.length).contains .fail }
  answers  : t.answers = s.answers.drop payloads.length ∧ t.drawn = s.drawn + payloads.length
  closed   : s.tx = none → t.tx = none
  fixed    : t.cfg = s.cfg ∧ t.latch = s.latch ∧ t.phase = s.phase ∧ t.pos = s.pos
  outside  : t.opb = s.opb ∧ t.inbox = s.inbox ∧ t.copyOut = s.copyOut ∧ t.rst = s.rst ∧ t.serial = s.serial

@[simp] theorem length_statuses (s : State) (n : Nat) : (s.statuses n).length = n := by simp [State.statuses]

/-- An update that touches nothing of the bus side makes no transaction. -/
theorem Sends.silent {s t : State} (h : t = { s with db := t.db, rmp := t.rmp, rdr := t.rdr, seq := t.seq, burst := t.burst }) :
    Sends [] s t := by
  rw [h]
  constructor <;> simp [State.statuses, State.callsFor, State.deviceAfter]

theorem Sends.txn (payload : List Byte) (s : State) : Sends [payload] s (Machine.txn payload s) := by
  constructor <;> simp [State.statuses, State.callsFor, State.deviceAfter, callsOf, Result.note]
  cases (s.answer 0).status <;> rfl

theorem Sends.trans {ps qs : List (List Byte)} {s t u : State} (h : Sends ps s t) (g : Sends qs t u) :
    Sends (ps ++ qs) s u := by
  have ha : ∀ k, t.answer k = s.answer (ps.length + k) := answer_drop h.answers.1 h.answers.2
  have hz : (ps ++ qs).zipIdx = ps.zipIdx ++ qs.zipIdx.map fun b => (b.1, ps.length + b.2) := by
    rw [List.zipIdx_append]
    congr 1
    rw [Nat.zero_add, List.zipIdx_eq_map_add]
  have hst : s.statuses (ps ++ qs).length = s.statuses ps.length ++ t.statuses qs.length := by
    simp [State.statuses, List.range_add, ha, Function.comp_def]
  constructor
  · rw [g.trace, h.trace, List.append_assoc]
  · rw [g.statuses, h.statuses, hst, List.append_assoc]
  · rw [g.events, h.events, h.statuses]
    simp [List.range_add, ha, Function.comp_def, Nat.add_assoc]
  · rw [g.calls, h.calls]
    simp only [State.callsFor, hz, List.flatMap_append, List.flatMap_map, ha, h.fixed.1, List.append_assoc]
  · rw [g.device]
    simp only [State.deviceAfter, hz, List.foldl_append, List.foldl_map, ha, h.fixed.1]
    rw [h.device]
    rfl
  · rw [g.result, h.result, hst]
    simp [Bool.or_assoc]
  · exact ⟨by simp [g.answers.1, h.answers.1], by simp [g.answers.2, h.answers.2, Nat.add_assoc]⟩
  · exact fun e => g.closed (h.closed e)
  · exact ⟨g.fixed.1.trans h.fixed.1, g.fixed.2.1.trans h.fixed.2.1, g.fixed.2.2.1.trans h.fixed.2.2.1,
      g.fixed.2.2.2.trans h.fixed.2.2.2⟩
  · obtain ⟨a1, a2, a3, a4, a5⟩ := h.outside
    obtain ⟨b1, b2, b3, b4, b5⟩ := g.outside
    exact ⟨b1.trans a1, b2.trans a2, b3.trans a3, b4.trans a4, b5.trans a5⟩

/-- `n` rounds that each send nothing send nothing. -/
theorem Sends.iterate {f : State → State} (hf : ∀ s, Sends [] s (f s)) (n : Nat) (s : State) : Sends [] s (f^[n] s) := by
  induction n generalizing s with
  | zero => exact Sends.silent rfl
  | succ n ih => exact (hf s).trans (ih (f s))

/-! ## Runs of transactions that all answer OK -/

theorem delivered_ok {a : Answer} (h : a.status = .ok) (payload : List Byte) : delivered a payload = payload := by
  simp [delivered, h]

/-- The device takes every payload whole. -/
theorem deviceAfter_ok {s : State} {payloads : List (List Byte)}
    (h : ∀ k, k < payloads.length → (s.answer k).status = .ok) :
    s.deviceAfter payloads = payloads.foldl (fun d b => d.receive s.cfg b) s.dev := by
  have key : ∀ (ps : List (List Byte)) (n : Nat) (d : Device),
      (∀ k, n ≤ k → k < n + ps.length → (s.answer k).status = .ok) →
      (ps.zipIdx n).foldl (fun d b => d.receive s.cfg (delivered (s.answer b.2) b.1)) d =
        ps.foldl (fun d b => d.receive s.cfg b) d := by
    intro ps
    induction ps with
    | nil => intros; rfl
    | cons p ps ih =>
      intro n d g
      simp only [List.zipIdx_cons, List.foldl_cons]
      rw [ih (n + 1) _ fun k h1 h2 => g k (by omega) (by simp only [List.length_cons]; omega),
        delivered_ok (g n (by omega) (by simp only [List.length_cons]; omega))]
  exact key payloads 0 s.dev fun k _ h2 => h k (by omega)

theorem resultOf_ok {s : State} {n : Nat} (h : ∀ k, k < n → (s.answer k).status = .ok) :
    resultOf (s.statuses n) = ⟨.ok, .none, false⟩ := by
  rw [resultOf, if_neg]
  simp only [State.statuses, List.mem_map, List.mem_range, not_exists, not_and]
  intro k hk e
  rw [h k hk] at e
  cases e

/-! ## Operations -/

/-- An idle block takes the command; what CHECK finds decides (10_state.md R31, 60_exceptions.md R212). -/
theorem operation_idle {op : BitVec 3} {o : Operands} {check : State → Cause} {p : Pos} {run : State → State} {s : State}
    (h : s.phase = .idle) : operation op o check p run s = .next (completed check p run (accept op o true s)) := by
  simp [operation, h]

/-- A busy block takes no command (R31, D20). -/
theorem operation_busy {op : BitVec 3} {o : Operands} {check : State → Cause} {p : Pos} {run : State → State} {s : State}
    (h : s.phase ≠ .idle) : operation op o check p run s = .next s := by
  simp [operation, h]

/-- A command that fails its check does nothing but report (R212). -/
theorem completed_rejected {check : State → Cause} {p : Pos} {run : State → State} {op : BitVec 3} {o : Operands}
    {c : Cause} {s : State} (h : check (accept op o true s) = c) (hc : c ≠ .none) :
    completed check p run (accept op o true s) = s.rejectedWith op o c := by
  unfold completed
  rw [h]
  cases c <;> first | exact absurd rfl hc | rfl

/-- A command that passes its check runs to its end: what its run sends is what the operation has sent. -/
theorem completed_ended {check : State → Cause} {p : Pos} {run : State → State} {op : BitVec 3} {o : Operands}
    {ps : List (List Byte)} {s t : State} (hc : check (accept op o true s) = .none)
    (ht : run (start p (accept op o true s)) = t) (hs : Sends ps (start p (accept op o true s)) t) (hb : t.burst = []) :
    completed check p run (accept op o true s) = deliverDone (finish t) ∧
      Ended op o ps s (deliverDone (finish t)) := by
  refine ⟨by unfold completed; rw [hc]; simp only [ht], ?_⟩
  have ha : ∀ k, (start p (accept op o true s)).answer k = s.answer k := answer_congr rfl rfl
  have hst : ∀ n, (start p (accept op o true s)).statuses n = s.statuses n := fun n => by simp only [State.statuses, ha]
  have hres : t.res.finish = resultOf (s.statuses ps.length) := by
    rw [hs.result, hst]
    by_cases hf : Status.fail ∈ s.statuses ps.length <;> simp [Result.finish, resultOf, hf]
  constructor
  · exact ⟨rfl, rfl⟩
  · exact fun e => hs.closed e
  · exact hs.fixed.2.1
  · exact hs.trace
  · rw [← hst]; exact hs.statuses
  · exact hres
  · show t.rsp ++ _ = _
    rw [hs.events]
    simp [ha]
  · exact hs.calls.trans (by simp [State.callsFor, ha])
  · exact hs.device.trans (by simp [State.deviceAfter, ha])
  · exact hs.answers
  · exact ⟨hs.fixed.1, hs.outside.1, hs.outside.2.1, hs.outside.2.2.1, hs.outside.2.2.2.1⟩
  · exact ⟨by show t.serial + 1 = _; rw [hs.outside.2.2.2.2]; rfl, hb⟩

/-- The state in which an accepted operation starts to run. -/
abbrev State.started (s : State) (op : BitVec 3) (o : Operands) (p : Pos) : State := start p (accept op o true s)

/-- An idle block whose check passes runs the operation to its end. -/
theorem operation_ended {check : State → Cause} {p : Pos} {run : State → State} {op : BitVec 3} {o : Operands}
    {ps : List (List Byte)} {s : State} (hi : s.phase = .idle) (hc : check (accept op o true s) = .none)
    (hs : Sends ps (s.started op o p) (run (s.started op o p))) (hb : (run (s.started op o p)).burst = []) :
    ∃ t, operation op o check p run s = .next t ∧ Ended op o ps s t ∧ t.db = (run (s.started op o p)).db ∧
      t.rmp = (run (s.started op o p)).rmp ∧ t.rdr = (run (s.started op o p)).rdr ∧
      t.seq = (run (s.started op o p)).seq := by
  obtain ⟨h1, h2⟩ := completed_ended hc rfl hs hb
  exact ⟨_, by rw [operation_idle hi, h1], h2, rfl, rfl, rfl, rfl⟩

/-- An idle block whose check fails reports it and does nothing else. -/
theorem operation_rejected {check : State → Cause} {p : Pos} {run : State → State} {op : BitVec 3} {o : Operands}
    {c : Cause} {s : State} (hi : s.phase = .idle) (h : check (accept op o true s) = c) (hc : c ≠ .none) :
    operation op o check p run s = .next (s.rejectedWith op o c) := by
  rw [operation_idle hi, completed_rejected h hc]

/-- What an operation can do: wait, be rejected, or run. -/
theorem operation_cases {check : State → Cause} {p : Pos} {run : State → State} {op : BitVec 3} {o : Operands}
    {s t : State} (h : operation op o check p run s = .next t) :
    (s.phase ≠ .idle ∧ t = s) ∨
      (s.phase = .idle ∧ ∃ c, c ≠ .none ∧ check (accept op o true s) = c ∧ t = s.rejectedWith op o c) ∨
      (s.phase = .idle ∧ check (accept op o true s) = .none ∧
        t = deliverDone (finish (run (s.started op o p)))) := by
  by_cases hi : s.phase = .idle
  · rw [operation_idle hi] at h
    by_cases hc : check (accept op o true s) = .none
    · refine .inr (.inr ⟨hi, hc, ?_⟩)
      unfold completed at h
      rw [hc] at h
      simpa using h.symm
    · rw [completed_rejected rfl hc] at h
      exact .inr (.inl ⟨hi, _, hc, rfl, by simpa using h.symm⟩)
  · rw [operation_busy hi] at h
    exact .inl ⟨hi, by simpa using h.symm⟩

/-- What a frame by itself does (60_exceptions.md R224). -/
theorem oneFrame_cases {payload : List Byte} {s t : State} (h : oneFrame payload s = .next t) :
    s.tx = none ∧ t = txn payload s := by
  unfold oneFrame at h
  split at h
  · rename_i e
    exact ⟨e, by cases h; rfl⟩
  · cases h

end Sys2Proof.Machine
end

