-- ==== Sys2Proof/Laws/Frame.lean ====
section
/-! SUPPORT. The reader, FLUSH, CLEAR and BLIT: what each loop reads, writes and sends (42_reader_flush_blit.md,
44_clear.md). -/

namespace Sys2Proof.Machine

/-! ## The reader (R170) -/

theorem reader_eq_cells (s : State) (p : PageIdx) : s.reader p = (List.range 128).map fun i => s.cell p (BitVec.ofNat 7 i) := by
  refine List.map_congr_left fun i hi => ?_
  have hi' : i < 128 := List.mem_range.mp hi
  simp only [State.cell, cellAddr, BitVec.toNat_ofNat]
  rw [Nat.mod_eq_of_lt (by omega)]

theorem reader_congr {s t : State} (h : t.db = s.db) (p : PageIdx) : t.reader p = s.reader p := by
  simp only [State.reader, h]

@[simp] theorem length_reader (s : State) (p : PageIdx) : (s.reader p).length = 128 := by simp [State.reader]

/-- The reader's loop after `n` outputs. -/
theorem flReads (s : State) (n : Nat) : flRead^[n] (flStart s) =
    { s with
      rdr := ⟨s.rdr.rpage, BitVec.ofNat 7 n⟩
      burst := (List.range n).map fun i => s.cell s.rdr.rpage (BitVec.ofNat 7 i) } := by
  induction n with
  | zero => rfl
  | succ n ih =>
    rw [Function.iterate_succ_apply', ih]
    simp [flRead, State.cell, List.range_succ, BitVec.ofNat_add]

/-! ## FLUSH -/

/-- The two payloads of one page (R173). -/
def State.pagePayloads (s : State) (p : PageIdx) : List (List Byte) :=
  [addrPayload s.cfg p 0#7, frameFD s.cfg (s.reader p)]

/-- The two transactions of a page and its count, from the state in which the row has been gathered. -/
theorem flushSend_sends (s : State) :
    Sends [addrPayload s.cfg s.rdr.rpage 0#7, frameFD s.cfg s.burst] s (flNext (dataBurst (flAddr s))) :=
  (Sends.txn (addrPayload s.cfg s.rdr.rpage 0#7) s).trans
    ((Sends.txn (frameFD s.cfg s.burst) (flAddr s)).trans (Sends.silent rfl))

theorem flushSend_rest (s : State) : (flNext (dataBurst (flAddr s))).db = s.db ∧
    (flNext (dataBurst (flAddr s))).rdr = { s.rdr with rpage := s.rdr.rpage + 1#3 } ∧
    (flNext (dataBurst (flAddr s))).rmp = s.rmp ∧ (flNext (dataBurst (flAddr s))).seq = s.seq ∧
    (flNext (dataBurst (flAddr s))).burst = [] := by
  simp [dataBurst, flAddr, addrSeq]

/-- The row gathered (R170): the reader's counter is back at 0. -/
theorem flRow (s : State) : flRead^[128] (flStart s) =
    { s with rdr := ⟨s.rdr.rpage, 0#7⟩, burst := s.reader s.rdr.rpage } := by
  rw [flReads, ← reader_eq_cells]
  rfl

/-- One page of a flush: two transactions whatever the first answers (41_sequencer.md R158). -/
theorem flushPage_sends (s : State) : Sends (s.pagePayloads s.rdr.rpage) s (flushPage s) := by
  rw [flushPage, flRow]
  exact (Sends.silent rfl).trans
    (flushSend_sends { s with rdr := ⟨s.rdr.rpage, 0#7⟩, burst := s.reader s.rdr.rpage })

theorem flushPage_rest (s : State) : (flushPage s).db = s.db ∧ (flushPage s).rdr = ⟨s.rdr.rpage + 1#3, 0#7⟩ ∧
    (flushPage s).rmp = s.rmp ∧ (flushPage s).seq = s.seq ∧ (flushPage s).burst = [] := by
  rw [flushPage, flRow]
  exact flushSend_rest { s with rdr := ⟨s.rdr.rpage, 0#7⟩, burst := s.reader s.rdr.rpage }

/-- `n` pages of a flush, from page 0. -/
theorem flushPages (s : State) (n : Nat) :
    Sends ((List.range n).flatMap fun p => s.pagePayloads (BitVec.ofNat 3 p)) s (flushPage^[n] (flInit s)) ∧
      (flushPage^[n] (flInit s)).db = s.db ∧ (flushPage^[n] (flInit s)).rdr.rpage = BitVec.ofNat 3 n ∧
      (flushPage^[n] (flInit s)).rmp = s.rmp ∧ (flushPage^[n] (flInit s)).seq = s.seq := by
  induction n with
  | zero => exact ⟨Sends.silent rfl, rfl, rfl, rfl, rfl⟩
  | succ n ih =>
    obtain ⟨h1, h2, h3, h4, h5⟩ := ih
    obtain ⟨g2, g3, g4, g5, -⟩ := flushPage_rest (flushPage^[n] (flInit s))
    rw [Function.iterate_succ_apply']
    refine ⟨?_, g2.trans h2, by rw [g3, h3, BitVec.ofNat_add], g4.trans h4, g5.trans h5⟩
    have g := flushPage_sends (flushPage^[n] (flInit s))
    rw [h3, State.pagePayloads, h1.fixed.1, reader_congr h2] at g
    rw [List.range_succ, List.flatMap_append]
    refine h1.trans ?_
    simpa [State.pagePayloads] using g

theorem runFlush_sends (s : State) : Sends s.flushTrace s (runFlush s) := by
  unfold runFlush
  exact (flushPages s 8).1

theorem runFlush_rest (s : State) : (runFlush s).db = s.db ∧ (runFlush s).rdr = ⟨0#3, 0#7⟩ ∧ (runFlush s).rmp = s.rmp ∧
    (runFlush s).seq = s.seq ∧ (runFlush s).burst = [] := by
  obtain ⟨-, h2, h3, h4, h5⟩ := flushPages s 7
  obtain ⟨g2, g3, g4, g5, g6⟩ := flushPage_rest (flushPage^[7] (flInit s))
  rw [runFlush, Function.iterate_succ_apply']
  exact ⟨g2.trans h2, by rw [g3, h3]; rfl, g4.trans h4, g5.trans h5, g6⟩

/-! ## CLEAR -/

/-- Zeroing the first `n` cells of a page touches only the buffer. -/
theorem clZeros (s : State) (p : PageIdx) (n : Nat) (hn : n ≤ 128) :
    let t := (List.range n).foldl (fun t i => t.setCell p (BitVec.ofNat 7 i) 0x00#8) s
    t = { s with db := t.db } ∧ (s.db.wf → t.db.wf) ∧
      ∀ (q : PageIdx) (x : SegIdx), t.cell q x = if q = p ∧ x.toNat < n then 0x00#8 else s.cell q x := by
  induction n with
  | zero => exact ⟨rfl, id, fun q x => by simp⟩
  | succ n ih =>
    obtain ⟨h1, h2, h3⟩ := ih (by omega)
    simp only [List.range_succ, List.foldl_append, List.foldl_cons, List.foldl_nil]
    refine ⟨by rw [h1]; rfl, fun h => setCell_wf (h2 h) _ _ _, fun q x => ?_⟩
    rw [cell_setCell, h3]
    have hx : x = BitVec.ofNat 7 n ↔ x.toNat = n := by
      rw [← BitVec.toNat_inj, BitVec.toNat_ofNat, Nat.mod_eq_of_lt (by omega)]
    simp only [hx]
    by_cases hq : q = p
    · by_cases hn : x.toNat = n
      · simp [hq, hn]
      · simp [hq, hn, show x.toNat < n + 1 ↔ x.toNat < n by omega]
    · simp [hq]

/-- The zeroing of one page (R200 step 1). -/
theorem clZero_frame (s : State) : clZero s = { s with db := (clZero s).db } := (clZeros s s.rdr.rpage 128 (by omega)).1

theorem clZero_wf {s : State} (h : s.db.wf) : (clZero s).db.wf := (clZeros s s.rdr.rpage 128 (by omega)).2.1 h

theorem clZero_cell (s : State) (q : PageIdx) (x : SegIdx) :
    (clZero s).cell q x = if q = s.rdr.rpage then 0x00#8 else s.cell q x := by
  have hx := x.isLt
  refine ((clZeros s s.rdr.rpage 128 (by omega)).2.2 q x).trans ?_
  simp [show x.toNat < 128 by omega]

theorem clZero_sends (s : State) : Sends [] s (clZero s) := Sends.silent (by rw [clZero_frame s])

theorem clZero_rest (s : State) : (clZero s).cfg = s.cfg ∧ (clZero s).rdr = s.rdr ∧ (clZero s).rmp = s.rmp ∧
    (clZero s).seq = s.seq ∧ (clZero s).burst = s.burst := by
  rw [clZero_frame s]
  exact ⟨rfl, rfl, rfl, rfl, rfl⟩

/-- The transaction of a page and its count, from the state in which the page has been zeroed. -/
theorem clearSend_sends (s : State) : Sends [clearPayload s.cfg s.rdr.rpage] s (clNext (clFrame s)) :=
  (Sends.txn (clearPayload s.cfg s.rdr.rpage) s).trans (Sends.silent rfl)

theorem clearSend_rest (s : State) : (clNext (clFrame s)).db = s.db ∧
    (clNext (clFrame s)).rdr = { s.rdr with rpage := s.rdr.rpage + 1#3 } ∧
    (clNext (clFrame s)).rmp = s.rmp ∧ (clNext (clFrame s)).seq = s.seq ∧ (clNext (clFrame s)).burst = s.burst := by
  simp [clFrame, clearFrame]

/-- One page of a clear. -/
theorem clearPage_sends (s : State) : Sends [clearPayload s.cfg s.rdr.rpage] s (clearPage s) := by
  obtain ⟨h1, h2, -⟩ := clZero_rest s
  have h := clearSend_sends (clZero s)
  rw [h1, h2] at h
  exact (clZero_sends s).trans h

theorem clearPage_db (s : State) : (clearPage s).db = (clZero s).db := (clearSend_rest (clZero s)).1

theorem clearPage_rest (s : State) : (clearPage s).rdr = { s.rdr with rpage := s.rdr.rpage + 1#3 } ∧
    (clearPage s).rmp = s.rmp ∧ (clearPage s).seq = s.seq ∧ (clearPage s).burst = s.burst := by
  obtain ⟨-, h2, h3, h4, h5⟩ := clZero_rest s
  obtain ⟨-, g2, g3, g4, g5⟩ := clearSend_rest (clZero s)
  exact ⟨g2.trans (by rw [h2]), g3.trans h3, g4.trans h4, g5.trans h5⟩

theorem clearPage_cell (s : State) (q : PageIdx) (x : SegIdx) :
    (clearPage s).cell q x = if q = s.rdr.rpage then 0x00#8 else s.cell q x := by
  rw [State.cell, clearPage_db, ← clZero_cell, State.cell]

/-- `n` pages of a clear, from page 0. -/
theorem clearPages (s : State) (n : Nat) (hn : n ≤ 8) :
    Sends ((List.range n).map fun p => clearPayload s.cfg (BitVec.ofNat 3 p)) s (clearPage^[n] (clInit s)) ∧
      (clearPage^[n] (clInit s)).rdr = { s.rdr with rpage := BitVec.ofNat 3 n } ∧
      (clearPage^[n] (clInit s)).rmp = s.rmp ∧ (clearPage^[n] (clInit s)).seq = s.seq ∧
      (clearPage^[n] (clInit s)).burst = s.burst ∧
      (s.db.wf → (clearPage^[n] (clInit s)).db.wf) ∧
      ∀ (q : PageIdx) (x : SegIdx),
        (clearPage^[n] (clInit s)).cell q x = if q.toNat < n then 0x00#8 else s.cell q x := by
  induction n with
  | zero => exact ⟨Sends.silent rfl, rfl, rfl, rfl, rfl, id, fun q x => by simp [clInit, State.cell]⟩
  | succ n ih =>
    obtain ⟨h1, h2, h3, h4, h5, h6, h7⟩ := ih (by omega)
    obtain ⟨g1, g2, g3, g4⟩ := clearPage_rest (clearPage^[n] (clInit s))
    rw [Function.iterate_succ_apply']
    refine ⟨?_, by rw [g1, h2]; simp [BitVec.ofNat_add], by rw [g2, h3], by rw [g3, h4], by rw [g4, h5], fun h => ?_,
      fun q x => ?_⟩
    · rw [List.range_succ, List.map_append]
      refine h1.trans ?_
      have g := clearPage_sends (clearPage^[n] (clInit s))
      rw [h2, h1.fixed.1] at g
      exact g
    · rw [clearPage_db]
      exact clZero_wf (h6 h)
    · rw [clearPage_cell, h7, h2]
      have hq : q = BitVec.ofNat 3 n ↔ q.toNat = n := by
        rw [← BitVec.toNat_inj, BitVec.toNat_ofNat, Nat.mod_eq_of_lt (by omega)]
      simp only [hq]
      by_cases hn : q.toNat = n
      · simp [hn]
      · simp [hn, show q.toNat < n + 1 ↔ q.toNat < n by omega]

theorem runClear_sends (s : State) : Sends (clearTrace s.cfg) s (runClear s) := by
  unfold runClear
  exact (clearPages s 8 (by omega)).1

theorem runClear_cell (s : State) (q : PageIdx) (x : SegIdx) : (runClear s).cell q x = 0x00#8 := by
  have hq := q.isLt
  rw [runClear, (clearPages s 8 (by omega)).2.2.2.2.2.2, if_pos (by omega)]

theorem runClear_rest (s : State) : (runClear s).rdr = { s.rdr with rpage := 0#3 } ∧ (runClear s).rmp = s.rmp ∧
    (runClear s).seq = s.seq ∧ (runClear s).burst = s.burst ∧ (s.db.wf → (runClear s).db.wf) := by
  obtain ⟨-, h2, h3, h4, h5, h6, -⟩ := clearPages s 8 (by omega)
  unfold runClear
  exact ⟨h2, h3, h4, h5, h6⟩

/-! ## BLIT -/

/-- BLIT's checks read the latched operands (R178). -/
theorem blitCheck_accept (op : BitVec 3) (o : Operands) (r : Bool) (s : State) : blitCheck (accept op o r s) =
    if 7 < o.page.toNat then .ePage
    else if 127 < o.seg.toNat then .eSeg
    else if o.width.toNat = 0 ∨ 128 < o.seg.toNat + o.width.toNat ∨ o.len.toNat < o.width.toNat then .eWidth
    else .none := rfl

/-- The gathering of `n` bytes (R178 steps 0 and 1). -/
theorem blFetches (s : State) (n : Nat) (hn : n < 65536) : blFetch^[n] (blInit s) =
    { s with
      seq := { s.seq with cidx := BitVec.ofNat 16 n }
      burst := (List.range n).map s.opbByte } := by
  induction n with
  | zero => rfl
  | succ n ih =>
    rw [Function.iterate_succ_apply', ih (by omega)]
    simp only [blFetch, BitVec.toNat_ofNat, List.range_succ, List.map_append, List.map_cons, List.map_nil]
    rw [Nat.mod_eq_of_lt (by omega), BitVec.ofNat_add]
    rfl

theorem width_lt (w : BitVec 8) : w.toNat < 65536 := by
  have := w.isLt
  omega

/-- The two transactions of a blit, from the state in which its bytes have been gathered. -/
theorem blitSend_sends (s : State) :
    Sends [frameFA s.cfg s.latch.page s.latch.seg, frameFD s.cfg s.burst] s (blEnd (dataBurst (blAddr s))) :=
  (Sends.txn (frameFA s.cfg s.latch.page s.latch.seg) s).trans
    ((Sends.txn (frameFD s.cfg s.burst) (blAddr s)).trans (Sends.silent rfl))

theorem blitSend_rest (s : State) : (blEnd (dataBurst (blAddr s))).db = s.db ∧
    (blEnd (dataBurst (blAddr s))).rdr = s.rdr ∧ (blEnd (dataBurst (blAddr s))).rmp = s.rmp ∧
    (blEnd (dataBurst (blAddr s))).seq = s.seq ∧ (blEnd (dataBurst (blAddr s))).burst = [] := by
  simp [dataBurst, blAddr]

/-- What BLIT sends: its two transactions, whatever the first answers. -/
theorem runBlit_sends (s : State) : Sends
    [frameFA s.cfg s.latch.page s.latch.seg, frameFD s.cfg ((List.range s.latch.width.toNat).map s.opbByte)] s
    (runBlit s) := by
  rw [runBlit, blFetches s _ (width_lt _)]
  exact (Sends.silent rfl).trans (blitSend_sends { s with
      seq := { s.seq with cidx := BitVec.ofNat 16 s.latch.width.toNat }
      burst := (List.range s.latch.width.toNat).map s.opbByte })

theorem runBlit_rest (s : State) : (runBlit s).db = s.db ∧ (runBlit s).rdr = s.rdr ∧ (runBlit s).rmp = s.rmp ∧
    (runBlit s).seq = { s.seq with cidx := s.latch.width.setWidth 16 } ∧ (runBlit s).burst = [] := by
  rw [runBlit, blFetches s _ (width_lt _), ← BitVec.ofNat_toNat]
  exact blitSend_rest { s with
      seq := { s.seq with cidx := BitVec.ofNat 16 s.latch.width.toNat }
      burst := (List.range s.latch.width.toNat).map s.opbByte }

end Sys2Proof.Machine
end

