-- ==== Sys2Proof/Laws/Remap.lean ====
section
/-! SUPPORT. The remap unit: what COPY_BIT does to each bit, and CONVERT's loop nest in closed form, one loop at a time
(40_remap.md R130 to R137). -/

namespace Sys2Proof.Machine

/-! ## COPY_BIT -/

/-- The bits of the result (R130). -/
theorem copyBit_getLsbD (src : Byte) (srcBit : BitVec 3) (dst : Byte) (dstBit : BitVec 3) {i : Nat} (hi : i < 8) :
    (copyBit src srcBit dst dstBit).getLsbD i =
      if i = dstBit.toNat then src.getLsbD srcBit.toNat else dst.getLsbD i := by
  have hd := dstBit.isLt
  simp only [copyBit, BitVec.getLsbD_or, BitVec.getLsbD_and, BitVec.getLsbD_not, BitVec.getLsbD_shiftLeft,
    BitVec.getLsbD_ushiftRight, BitVec.getLsbD_one, hi, decide_true, Bool.true_and]
  by_cases h : i = dstBit.toNat
  · subst h
    simp
  · by_cases hlt : i < dstBit.toNat
    · simp [h, hlt]
    · have hz : i - dstBit.toNat ≠ 0 := by omega
      simp [h, hlt, hz]

/-! ## The frame of CONVERT -/

/-- Only the Display Buffer and the remap registers differ. -/
def SameButRemap (s t : State) : Prop := t = { s with db := t.db, rmp := t.rmp }

theorem SameButRemap.refl (s : State) : SameButRemap s s := rfl

theorem SameButRemap.trans {s t u : State} (h : SameButRemap s t) (g : SameButRemap t u) : SameButRemap s u := by
  unfold SameButRemap at *
  rw [g, h]

theorem SameButRemap.iterate {f : State → State} (hf : ∀ s, SameButRemap s (f s)) (n : Nat) (s : State) :
    SameButRemap s (f^[n] s) := by
  induction n generalizing s with
  | zero => exact .refl s
  | succ n ih => exact (hf s).trans (ih (f s))

/-- The operand byte does not depend on the buffer or the registers (20_memory.md R73). -/
theorem SameButRemap.opbByte {s t : State} (h : SameButRemap s t) (i : Nat) : t.opbByte i = s.opbByte i := by
  rw [h]
  rfl

theorem cvInit_frame (s : State) : SameButRemap s (cvInit s) := rfl
theorem cvFetch_frame (s : State) : SameButRemap s (cvFetch s) := rfl
theorem cvBit_frame (s : State) : SameButRemap s (cvBit s) := rfl
theorem cvIdx_frame (s : State) : SameButRemap s (cvIdx s) := rfl
theorem cvEnd_frame (s : State) : SameButRemap s (cvEnd s) := rfl
theorem cvRowEnd_frame (s : State) : SameButRemap s (cvRow (cvDbit (cvOff s))) := rfl

theorem cvByte_frame (s : State) : SameButRemap s (cvByte s) := by
  unfold cvByte
  exact (cvFetch_frame s).trans ((SameButRemap.iterate cvBit_frame 8 _).trans (cvIdx_frame _))

theorem cvWholeRow_frame (s : State) : SameButRemap s (cvWholeRow s) := by
  unfold cvWholeRow
  exact (SameButRemap.iterate cvByte_frame 16 s).trans (cvRowEnd_frame _)

theorem cvRows_frame (s : State) (n : Nat) : SameButRemap s (cvWholeRow^[n] (cvInit s)) :=
  (cvInit_frame s).trans (SameButRemap.iterate cvWholeRow_frame n _)

theorem runConvert_frame (s : State) : SameButRemap s (runConvert s) := by
  unfold runConvert
  exact (cvRows_frame s 64).trans (cvEnd_frame _)

/-! ## The bit loop -/

@[simp] theorem cvBit_rmp (s : State) :
    (cvBit s).rmp = { s.rmp with seg := s.rmp.seg + 1#7, sbit := s.rmp.sbit - 1#3 } := rfl

theorem cvBit_cell (s : State) (p : PageIdx) (x : SegIdx) {b : Nat} (hb : b < 8) :
    ((cvBit s).cell p x).getLsbD b =
      if p = s.rmp.page ∧ x = s.rmp.seg ∧ b = s.rmp.dbit.toNat then s.rmp.sbyte.getLsbD s.rmp.sbit.toNat
      else (s.cell p x).getLsbD b := by
  show ((cvCopy s).cell p x).getLsbD b = _
  unfold cvCopy
  rw [cell_setCell]
  by_cases h : p = s.rmp.page ∧ x = s.rmp.seg
  · rw [if_pos h, copyBit_getLsbD _ _ _ _ hb, h.1, h.2]
    simp
  · rw [if_neg h, if_neg fun g => h ⟨g.1, g.2.1⟩]

theorem cvBits_rmp (s : State) (n : Nat) :
    (cvBit^[n] s).rmp =
      { s.rmp with seg := s.rmp.seg + BitVec.ofNat 7 n, sbit := s.rmp.sbit - BitVec.ofNat 3 n } := by
  induction n with
  | zero => simp
  | succ n ih =>
    have h7 : BitVec.ofNat 7 (n + 1) = BitVec.ofNat 7 n + 1#7 := by rw [BitVec.ofNat_add]
    have h3 : BitVec.ofNat 3 (n + 1) = BitVec.ofNat 3 n + 1#3 := by rw [BitVec.ofNat_add]
    rw [Function.iterate_succ_apply', cvBit_rmp, ih, h7, h3]
    simp [BitVec.add_assoc, BitVec.sub_sub]

/-- After `n` bits of a byte, with `sbit` at 7 and room for eight segments: the `n` cells from `seg` on have the bits from
bit 7 down at row bit `dbit`. -/
theorem cvBits_cell (s : State) (n : Nat) (hn : n ≤ 8) (hs : s.rmp.sbit = 7#3) (hseg : s.rmp.seg.toNat + 8 ≤ 128)
    (p : PageIdx) (x : SegIdx) {b : Nat} (hb : b < 8) :
    ((cvBit^[n] s).cell p x).getLsbD b =
      if p = s.rmp.page ∧ b = s.rmp.dbit.toNat ∧ s.rmp.seg.toNat ≤ x.toNat ∧ x.toNat < s.rmp.seg.toNat + n then
        s.rmp.sbyte.getLsbD (7 - (x.toNat - s.rmp.seg.toNat))
      else (s.cell p x).getLsbD b := by
  induction n with
  | zero => rw [if_neg (by omega)]; rfl
  | succ n ih =>
    have hsn : (s.rmp.seg + BitVec.ofNat 7 n).toNat = s.rmp.seg.toNat + n := by
      simp only [BitVec.toNat_add, BitVec.toNat_ofNat]; omega
    have hbn : (s.rmp.sbit - BitVec.ofNat 3 n).toNat = 7 - n := by
      rw [hs, BitVec.toNat_sub, BitVec.toNat_ofNat, BitVec.toNat_ofNat]; omega
    have hx : x = s.rmp.seg + BitVec.ofNat 7 n ↔ x.toNat = s.rmp.seg.toNat + n := by
      rw [← hsn, BitVec.toNat_inj]
    rw [Function.iterate_succ_apply', cvBit_cell _ _ _ hb, cvBits_rmp, ih (by omega)]
    simp only [hbn, hx, ← BitVec.toNat_inj]
    clear hsn hbn hx ih
    by_cases h : p.toNat = s.rmp.page.toNat ∧ x.toNat = s.rmp.seg.toNat + n ∧ b = s.rmp.dbit.toNat
    · rw [if_pos h, if_pos (by omega), show x.toNat - s.rmp.seg.toNat = n by omega]
    · rw [if_neg h]
      by_cases g : p.toNat = s.rmp.page.toNat ∧ b = s.rmp.dbit.toNat ∧ s.rmp.seg.toNat ≤ x.toNat ∧ x.toNat < s.rmp.seg.toNat + n
      · rw [if_pos g, if_pos (by omega)]
      · rw [if_neg g, if_neg (by intro k; omega)]

/-! ## The byte loop -/

theorem cvIdx_cell (s : State) (p : PageIdx) (x : SegIdx) : (cvIdx s).cell p x = s.cell p x := rfl

theorem cvByte_rmp (s : State) :
    (cvByte s).rmp = { s.rmp with
      sbyte := s.opbByte s.rmp.source, sbit := 7#3, seg := s.rmp.seg + 8#7, idx := s.rmp.idx + 1#4 } := by
  rw [cvByte, cvIdx_rmp, cvBits_rmp]
  simp

theorem cvByte_cell (s : State) (hseg : s.rmp.seg.toNat + 8 ≤ 128) (p : PageIdx) (x : SegIdx) {b : Nat} (hb : b < 8) :
    ((cvByte s).cell p x).getLsbD b =
      if p = s.rmp.page ∧ b = s.rmp.dbit.toNat ∧ s.rmp.seg.toNat ≤ x.toNat ∧ x.toNat < s.rmp.seg.toNat + 8 then
        (s.opbByte s.rmp.source).getLsbD (7 - (x.toNat - s.rmp.seg.toNat))
      else (s.cell p x).getLsbD b := by
  rw [cvByte, cvIdx_cell]
  exact cvBits_cell (cvFetch s) 8 (by omega) rfl hseg p x hb

theorem cvBytes_rmp (s : State) (n : Nat) (hi : s.rmp.idx = 0#4) (hs : s.rmp.seg = 0#7) :
    ((cvByte^[n] s).rmp.idx = BitVec.ofNat 4 n ∧ (cvByte^[n] s).rmp.seg = BitVec.ofNat 7 (8 * n)) ∧
      (cvByte^[n] s).rmp.row = s.rmp.row ∧ (cvByte^[n] s).rmp.page = s.rmp.page ∧
      (cvByte^[n] s).rmp.dbit = s.rmp.dbit ∧ (cvByte^[n] s).rmp.off = s.rmp.off := by
  induction n with
  | zero => simp [hi, hs]
  | succ n ih =>
    obtain ⟨⟨h1, h2⟩, h3, h4, h5, h6⟩ := ih
    rw [Function.iterate_succ_apply', cvByte_rmp]
    simp only [h1, h2, h3, h4, h5, h6]
    refine ⟨⟨?_, ?_⟩, trivial, trivial, trivial, trivial⟩
    · rw [BitVec.ofNat_add]
    · rw [show 8 * (n + 1) = 8 * n + 8 by omega, BitVec.ofNat_add]

/-- After `n` bytes of a row the first `8 * n` columns hold the row's pixels. -/
theorem cvBytes_cell (s : State) (n : Nat) (hn : n ≤ 16) (hi : s.rmp.idx = 0#4) (hs : s.rmp.seg = 0#7)
    (p : PageIdx) (x : SegIdx) {b : Nat} (hb : b < 8) :
    ((cvByte^[n] s).cell p x).getLsbD b =
      if p = s.rmp.page ∧ b = s.rmp.dbit.toNat ∧ x.toNat < 8 * n then
        (s.opbByte (s.rmp.off.toNat + x.toNat / 8)).getLsbD (7 - x.toNat % 8)
      else (s.cell p x).getLsbD b := by
  induction n with
  | zero => rw [if_neg (by omega)]; rfl
  | succ n ih =>
    obtain ⟨⟨h1, h2⟩, h3, h4, h5, h6⟩ := cvBytes_rmp s n hi hs
    have hsn : (cvByte^[n] s).rmp.seg.toNat = 8 * n := by rw [h2, BitVec.toNat_ofNat]; omega
    have hin : (cvByte^[n] s).rmp.source = s.rmp.off.toNat + n := by
      rw [Rmp.source, h1, h6, BitVec.toNat_ofNat]; omega
    rw [Function.iterate_succ_apply', cvByte_cell _ (by omega) _ _ hb, ih (by omega), h4, h5, hsn, hin,
      (SameButRemap.iterate cvByte_frame n s).opbByte]
    simp only [← BitVec.toNat_inj]
    clear h1 h2 h3 h4 h5 h6 hsn hin ih
    by_cases h : p.toNat = s.rmp.page.toNat ∧ b = s.rmp.dbit.toNat ∧ 8 * n ≤ x.toNat ∧ x.toNat < 8 * n + 8
    · rw [if_pos h, if_pos (by omega), show x.toNat / 8 = n by omega, show x.toNat - 8 * n = x.toNat % 8 by omega]
    · rw [if_neg h]
      by_cases g : p.toNat = s.rmp.page.toNat ∧ b = s.rmp.dbit.toNat ∧ x.toNat < 8 * n
      · rw [if_pos g, if_pos (by omega)]
      · rw [if_neg g, if_neg (by intro k; omega)]

/-- The last byte of a row is what `sbyte` holds after it. -/
theorem cvBytes_sbyte (s : State) (hi : s.rmp.idx = 0#4) (hs : s.rmp.seg = 0#7) :
    (cvByte^[16] s).rmp.sbyte = s.opbByte (s.rmp.off.toNat + 15) := by
  obtain ⟨⟨h1, -⟩, -, -, -, h6⟩ := cvBytes_rmp s 15 hi hs
  rw [Function.iterate_succ_apply', cvByte_rmp]
  rw [(SameButRemap.iterate cvByte_frame 15 s).opbByte, Rmp.source, h1, h6]
  rfl

/-! ## The row loop -/

theorem cvRowEnd_rmp (s : State) : (cvRow (cvDbit (cvOff s))).rmp =
    { s.rmp with
      off := s.rmp.off + 16#10, seg := 0#7, dbit := s.rmp.dbit + 1#3,
      page := if s.rmp.dbit = 7#3 then s.rmp.page + 1#3 else s.rmp.page,
      row := s.rmp.row + 1#6 } := rfl

theorem cvRowEnd_cell (s : State) (p : PageIdx) (x : SegIdx) : (cvRow (cvDbit (cvOff s))).cell p x = s.cell p x := rfl

theorem cvWholeRow_rmp (s : State) (hi : s.rmp.idx = 0#4) (hs : s.rmp.seg = 0#7) :
    (cvWholeRow s).rmp.row = s.rmp.row + 1#6 ∧ (cvWholeRow s).rmp.idx = 0#4 ∧ (cvWholeRow s).rmp.seg = 0#7 ∧
      (cvWholeRow s).rmp.dbit = s.rmp.dbit + 1#3 ∧
      (cvWholeRow s).rmp.page = (if s.rmp.dbit = 7#3 then s.rmp.page + 1#3 else s.rmp.page) ∧
      (cvWholeRow s).rmp.off = s.rmp.off + 16#10 ∧
      (cvWholeRow s).rmp.sbyte = s.opbByte (s.rmp.off.toNat + 15) := by
  obtain ⟨⟨h1, -⟩, h3, h4, h5, h6⟩ := cvBytes_rmp s 16 hi hs
  have h7 := cvBytes_sbyte s hi hs
  rw [cvWholeRow, cvRowEnd_rmp]
  exact ⟨by rw [h3], h1, rfl, by rw [h5], by rw [h4, h5], by rw [h6], h7⟩

theorem cvWholeRow_cell (s : State) (hi : s.rmp.idx = 0#4) (hs : s.rmp.seg = 0#7)
    (p : PageIdx) (x : SegIdx) {b : Nat} (hb : b < 8) :
    ((cvWholeRow s).cell p x).getLsbD b =
      if p = s.rmp.page ∧ b = s.rmp.dbit.toNat then
        (s.opbByte (s.rmp.off.toNat + x.toNat / 8)).getLsbD (7 - x.toNat % 8)
      else (s.cell p x).getLsbD b := by
  rw [cvWholeRow, cvRowEnd_cell, cvBytes_cell s 16 (by omega) hi hs p x hb]
  have hx := x.isLt
  by_cases h : p = s.rmp.page ∧ b = s.rmp.dbit.toNat
  · rw [if_pos h, if_pos ⟨h.1, h.2, by omega⟩]
  · rw [if_neg h, if_neg fun g => h ⟨g.1, g.2.1⟩]

/-- Where the registers stand after `n` rows (R136). -/
theorem cvRows_rmp (s : State) (n : Nat) :
    (cvWholeRow^[n] (cvInit s)).rmp.row = BitVec.ofNat 6 n ∧ (cvWholeRow^[n] (cvInit s)).rmp.idx = 0#4 ∧
      (cvWholeRow^[n] (cvInit s)).rmp.seg = 0#7 ∧ (cvWholeRow^[n] (cvInit s)).rmp.dbit = BitVec.ofNat 3 n ∧
      (cvWholeRow^[n] (cvInit s)).rmp.page = BitVec.ofNat 3 (n / 8) ∧
      (cvWholeRow^[n] (cvInit s)).rmp.off = BitVec.ofNat 10 (16 * n) := by
  induction n with
  | zero => exact ⟨rfl, rfl, rfl, rfl, rfl, rfl⟩
  | succ n ih =>
    obtain ⟨h1, h2, h3, h4, h5, h6⟩ := ih
    obtain ⟨g1, g2, g3, g4, g5, g6, -⟩ := cvWholeRow_rmp _ h2 h3
    rw [Function.iterate_succ_apply']
    refine ⟨?_, g2, g3, ?_, ?_, ?_⟩
    · rw [g1, h1, BitVec.ofNat_add]
    · rw [g4, h4, BitVec.ofNat_add]
    · rw [g5, h4, h5]
      have : BitVec.ofNat 3 n = 7#3 ↔ n % 8 = 7 := by
        rw [← BitVec.toNat_inj, BitVec.toNat_ofNat, BitVec.toNat_ofNat]
      by_cases h : n % 8 = 7
      · rw [if_pos (this.mpr h), show (n + 1) / 8 = n / 8 + 1 by omega, BitVec.ofNat_add]
      · rw [if_neg fun e => h (this.mp e), show (n + 1) / 8 = n / 8 by omega]
    · rw [g6, h6, show 16 * (n + 1) = 16 * n + 16 by omega, BitVec.ofNat_add]

/-- After `n` rows every cell bit of the first `n` pixel rows is the source's pixel, the others are as before. -/
theorem cvRows_cell (s : State) (n : Nat) (hn : n ≤ 64) (p : PageIdx) (x : SegIdx) {b : Nat} (hb : b < 8) :
    ((cvWholeRow^[n] (cvInit s)).cell p x).getLsbD b =
      if 8 * p.toNat + b < n then
        (s.opbByte (16 * (8 * p.toNat + b) + x.toNat / 8)).getLsbD (7 - x.toNat % 8)
      else (s.cell p x).getLsbD b := by
  induction n with
  | zero => rw [if_neg (by omega)]; rfl
  | succ n ih =>
    obtain ⟨-, h2, h3, h4, h5, h6⟩ := cvRows_rmp s n
    have hp := p.isLt
    have hp' : p = BitVec.ofNat 3 (n / 8) ↔ p.toNat = n / 8 := by
      rw [← BitVec.toNat_inj, BitVec.toNat_ofNat, Nat.mod_eq_of_lt (by omega)]
    have hoff : (BitVec.ofNat 10 (16 * n)).toNat = 16 * n := by rw [BitVec.toNat_ofNat]; omega
    rw [Function.iterate_succ_apply', cvWholeRow_cell _ h2 h3 _ _ hb, ih (by omega), h4, h5, h6, hoff,
      (cvRows_frame s n).opbByte]
    simp only [hp', BitVec.toNat_ofNat]
    clear h2 h3 h4 h5 h6 hoff hp' ih
    by_cases h : p.toNat = n / 8 ∧ b = n % 2 ^ 3
    · rw [if_pos h, if_pos (by omega), show 8 * p.toNat + b = n by omega]
    · rw [if_neg h]
      by_cases g : 8 * p.toNat + b < n
      · rw [if_pos g, if_pos (by omega)]
      · rw [if_neg g, if_neg (by omega)]

theorem cvEnd_cell (s : State) (p : PageIdx) (x : SegIdx) : (cvEnd s).cell p x = s.cell p x := rfl

theorem runConvert_rest (s : State) : (runConvert s).rdr = s.rdr ∧ (runConvert s).seq = s.seq ∧
    (runConvert s).burst = s.burst := by
  rw [runConvert_frame s]
  exact ⟨rfl, rfl, rfl⟩

/-- CONVERT's function (R137). -/
theorem runConvert_cell (s : State) (p : PageIdx) (x : SegIdx) {b : Nat} (hb : b < 8) :
    ((runConvert s).cell p x).getLsbD b =
      (s.opbByte (16 * (8 * p.toNat + b) + x.toNat / 8)).getLsbD (7 - x.toNat % 8) := by
  have hp := p.isLt
  rw [runConvert, cvEnd_cell, cvRows_cell s 64 (by omega) p x hb, if_pos (by omega)]

/-- CONVERT's registers at its end: the counters have wrapped to 0 (R136). -/
theorem runConvert_rmp (s : State) :
    (runConvert s).rmp.row = 0#6 ∧ (runConvert s).rmp.idx = 0#4 ∧ (runConvert s).rmp.seg = 0#7 ∧
      (runConvert s).rmp.dbit = 0#3 ∧ (runConvert s).rmp.page = 0#3 ∧ (runConvert s).rmp.off = 0#10 := by
  have h := cvRows_rmp s 64
  rw [runConvert]
  generalize cvWholeRow^[64] (cvInit s) = t at h ⊢
  exact h

/-- After CONVERT the source byte register does not depend on the bitmap (10_state.md R32). -/
theorem runConvert_sbyte (s : State) : (runConvert s).rmp.sbyte = Config.freeSourceByte s.serial := by
  have h := congrArg State.serial (cvRows_frame s 64)
  rw [runConvert]
  generalize cvWholeRow^[64] (cvInit s) = t at h ⊢
  exact congrArg Config.freeSourceByte h

/-! ## No copy of the bitmap is kept (10_state.md R32) -/

/-- Two states alike but for the Display Buffer, the operand buffer and the source byte. -/
def SameButSource (s t : State) : Prop :=
  t = { s with db := t.db, opb := t.opb, rmp := { s.rmp with sbyte := t.rmp.sbyte } }

/-- Two states alike but for the Display Buffer and the operand buffer. -/
def SameButBuffers (s t : State) : Prop := t = { s with db := t.db, opb := t.opb }

theorem SameButSource.map {f : State → State} {s t : State} (h : SameButSource s t)
    (hf : ∀ s db opb sb, SameButSource (f s) (f { s with db := db, opb := opb, rmp := { s.rmp with sbyte := sb } })) :
    SameButSource (f s) (f t) := by
  unfold SameButSource at h
  rw [h]
  exact hf _ _ _ _

theorem SameButSource.iterate {f : State → State} (hf : ∀ s t, SameButSource s t → SameButSource (f s) (f t)) (n : Nat)
    {s t : State} (h : SameButSource s t) : SameButSource (f^[n] s) (f^[n] t) := by
  induction n generalizing s t with
  | zero => exact h
  | succ n ih => exact ih (hf _ _ h)

theorem cvByte_sameButSource {s t : State} (h : SameButSource s t) : SameButSource (cvByte s) (cvByte t) := by
  rw [cvByte, cvByte]
  have hf := h.map (f := cvFetch) fun _ _ _ _ => rfl
  exact (hf.iterate (f := cvBit) (fun _ _ g => g.map fun _ _ _ _ => rfl) 8).map (f := cvIdx) fun _ _ _ _ => rfl

theorem cvWholeRow_sameButSource {s t : State} (h : SameButSource s t) :
    SameButSource (cvWholeRow s) (cvWholeRow t) := by
  rw [cvWholeRow, cvWholeRow]
  exact (h.iterate (fun _ _ => cvByte_sameButSource) 16).map (f := fun s => cvRow (cvDbit (cvOff s))) fun _ _ _ _ => rfl

/-- Step 7 makes the source bytes equal. -/
theorem cvEnd_sameButBuffers {s t : State} (h : SameButSource s t) : SameButBuffers (cvEnd s) (cvEnd t) := by
  unfold SameButSource at h
  rw [h]
  rfl

/-- Whatever the bitmap, CONVERT leaves the same state but for the Display Buffer and the host's own buffer. -/
theorem runConvert_sameButBuffers {s t : State} (h : SameButSource s t) :
    SameButBuffers (runConvert s) (runConvert t) := by
  rw [runConvert, runConvert]
  exact cvEnd_sameButBuffers ((h.map (f := cvInit) fun _ _ _ _ => rfl).iterate (fun _ _ => cvWholeRow_sameButSource) 64)

/-- The end of the operation keeps that. -/
theorem SameButBuffers.ended {s t : State} (h : SameButBuffers s t) :
    SameButBuffers (deliverDone (finish s)) (deliverDone (finish t)) := by
  unfold SameButBuffers at h
  rw [h]
  rfl

/-! ## The canonical form -/

theorem wf_iterate {f : State → State} (hf : ∀ s, s.db.wf → (f s).db.wf) (n : Nat) {s : State} (h : s.db.wf) :
    (f^[n] s).db.wf := by
  induction n generalizing s with
  | zero => exact h
  | succ n ih => exact ih (hf s h)

theorem cvBit_wf {s : State} (h : s.db.wf) : (cvBit s).db.wf := setCell_wf h _ _ _

theorem cvByte_wf {s : State} (h : s.db.wf) : (cvByte s).db.wf := by
  rw [cvByte, cvIdx_db]
  exact wf_iterate (fun _ => cvBit_wf) 8 (s := cvFetch s) h

theorem cvWholeRow_wf {s : State} (h : s.db.wf) : (cvWholeRow s).db.wf := by
  rw [cvWholeRow, cvRow_db, cvDbit_db, cvOff_db]
  exact wf_iterate (fun _ => cvByte_wf) 16 h

theorem runConvert_wf {s : State} (h : s.db.wf) : (runConvert s).db.wf := by
  rw [runConvert, cvEnd_db]
  exact wf_iterate (fun _ => cvWholeRow_wf) 64 (s := cvInit s) h

/-- What CONVERT sends: nothing (R138). -/
theorem runConvert_sends (s : State) : Sends [] s (runConvert s) :=
  Sends.silent (by rw [runConvert_frame s])

end Sys2Proof.Machine
end

