-- ==== Sys2Proof/Laws/Text.lean ====
section
/-! SUPPORT. TEXT's character loop: what it reads, counts and sends (43_text.md R190, R191). -/

namespace Sys2Proof.Machine

/-- The glyph loop after `n` reads (R190 step 5). -/
theorem teGlyphs (s : State) (n : Nat) : teGlyph^[n] s =
    { s with
      seq := { s.seq with gidx := s.seq.gidx + BitVec.ofNat 3 n }
      burst := s.burst ++ (List.range n).map fun i => Config.glyph s.char (s.seq.gidx + BitVec.ofNat 3 i) } := by
  induction n with
  | zero => simp
  | succ n ih =>
    rw [Function.iterate_succ_apply', ih]
    simp [teGlyph, State.char, State.opbByte, List.range_succ, BitVec.ofNat_add, BitVec.add_assoc]

/-- The eight bytes of a glyph, gathered from the start. -/
theorem teWholeGlyph {s : State} (hb : s.burst = []) (hg : s.seq.gidx = 0#3) :
    teGlyph^[8] s = { s with burst := glyphBytes s.char } := by
  rw [teGlyphs, hb, hg, glyphBytes]
  simp only [List.nil_append, BitVec.zero_add]
  rw [show (BitVec.ofNat 3 8) = s.seq.gidx from hg.symm]

theorem newlines_succ (s : State) (n : Nat) :
    s.newlines (n + 1) = s.newlines n + if s.opbByte n = s.cfg.nl then 1 else 0 := by
  simp [State.newlines, List.range_succ]

/-- One character (R190 steps 2 to 6): a newline moves the cursor to the next page and addresses it, any other character
is one data burst. -/
theorem textChar_newline {s : State} (h : s.char = s.cfg.nl) :
    textChar s = teNext (txn (addrPayload s.cfg (s.seq.curPage + 1#3) 0#7)
      { s with seq := { s.seq with curPage := s.seq.curPage + 1#3 } }) := by
  rw [textChar, if_pos h]
  rfl

theorem textChar_glyph {s : State} (h : s.char ≠ s.cfg.nl) (hb : s.burst = []) (hg : s.seq.gidx = 0#3) :
    textChar s = teNext (txn (frameFD s.cfg (glyphBytes s.char)) { s with burst := glyphBytes s.char }) := by
  rw [textChar, if_neg h, teWholeGlyph hb hg]
  rfl

/-- What the operand buffer and the configuration answer does not depend on what a run of transactions changed. -/
theorem Sends.opbByte {ps : List (List Byte)} {s t : State} (h : Sends ps s t) (i : Nat) : t.opbByte i = s.opbByte i := by
  simp only [State.opbByte, h.outside.1, h.outside.2.2.2.2]

/-- The state of TEXT after its first `n` characters. -/
structure TextAt (n : Nat) (s t : State) : Prop where
  sends : Sends (s.textTrace n) s t
  page  : t.seq.curPage = BitVec.ofNat 3 (s.newlines n)
  cidx  : t.seq.cidx = BitVec.ofNat 16 n
  gidx  : t.seq.gidx = 0#3
  burst : t.burst = []
  rest  : t.db = s.db ∧ t.rdr = s.rdr ∧ t.rmp = s.rmp

/-- The initial cursor reset (R190 step 1): one addressing sequence, unconditional. -/
theorem textAt_zero (s : State) : TextAt 0 s (teAddr (teInit s)) where
  sends := (Sends.silent (t := teInit s) rfl).trans (Sends.txn (addrPayload s.cfg 0#3 0#7) (teInit s))
  page := rfl
  cidx := rfl
  gidx := rfl
  burst := rfl
  rest := ⟨rfl, rfl, rfl⟩

theorem textTrace_succ (s : State) (n : Nat) : s.textTrace (n + 1) = s.textTrace n ++ [s.charPayload n] := by
  simp [State.textTrace, List.range_succ]

/-- One more character. -/
theorem textAt_succ {n : Nat} {s t : State} (hn : n < 65536) (h : TextAt n s t) : TextAt (n + 1) s (textChar t) := by
  have hc : t.char = s.opbByte n := by
    rw [State.char, h.cidx, BitVec.toNat_ofNat, Nat.mod_eq_of_lt (by omega), h.sends.opbByte]
  have hnl := newlines_succ s n
  by_cases hl : s.opbByte n = s.cfg.nl
  · rw [if_pos hl] at hnl
    have hp : t.seq.curPage + 1#3 = BitVec.ofNat 3 (s.newlines (n + 1)) := by rw [hnl, h.page, BitVec.ofNat_add]
    rw [textChar_newline (by rw [hc, hl, h.sends.fixed.1])]
    constructor
    · rw [textTrace_succ, State.charPayload, if_pos hl, ← hp, ← h.sends.fixed.1]
      exact h.sends.trans ((Sends.silent rfl).trans ((Sends.txn _ _).trans (Sends.silent rfl)))
    · simpa using hp
    · simp [h.cidx, BitVec.ofNat_add]
    · simp [h.gidx]
    · simp
    · simpa using h.rest
  · rw [if_neg hl] at hnl
    rw [textChar_glyph (by rw [hc, h.sends.fixed.1]; exact hl) h.burst h.gidx]
    constructor
    · rw [textTrace_succ, State.charPayload, if_neg hl, ← hc, ← h.sends.fixed.1]
      exact h.sends.trans ((Sends.silent rfl).trans ((Sends.txn _ _).trans (Sends.silent rfl)))
    · simp [hnl, h.page]
    · simp [h.cidx, BitVec.ofNat_add]
    · simp [h.gidx]
    · simp
    · simpa using h.rest

theorem textAt (s : State) (n : Nat) (hn : n < 65536) : TextAt n s (textChar^[n] (teAddr (teInit s))) := by
  induction n with
  | zero => exact textAt_zero s
  | succ n ih =>
    rw [Function.iterate_succ_apply']
    exact textAt_succ (by omega) (ih (by omega))

theorem runText_spec (s : State) : TextAt s.latch.len.toNat s (runText s) := textAt s _ s.latch.len.isLt

end Sys2Proof.Machine
end

