-- ==== Sys2Proof/Laws/Step.lean ====
section
/-! SUPPORT. What an instruction, a micro-step, a step and a tick can do: one inversion each, which invariants are proved
from. -/

namespace Sys2Proof.Machine

/-! ## Instructions -/

/-- What an instruction with a next state can have done. -/
inductive Executed (s : State) : Instr → State → Prop
  /-- A command presented to a busy block waits (10_state.md R31). -/
  | waits (i : Instr) (h : s.phase ≠ .idle) : Executed s i s
  /-- A rejected operation (60_exceptions.md R212). -/
  | rejected (i : Instr) (op : BitVec 3) (o : Operands) (c : Cause) (h : s.phase = .idle) (hc : c ≠ .none) :
      Executed s i (s.rejectedWith op o c)
  /-- An operation that ran: `run` sent `payloads` from the started state. -/
  | ran (i : Instr) (op : BitVec 3) (o : Operands) (p : Pos) (run : State → State) (payloads : List (List Byte))
      (h : s.phase = .idle) (hs : Sends payloads (s.started op o p) (run (s.started op o p)))
      (hb : (run (s.started op o p)).burst = [])
      (hw : s.db.wf → (run (s.started op o p)).db.wf)
      (hd : (run (s.started op o p)).db = s.db ∨ i = .convert o ∨ i = .clear o) :
      Executed s i (deliverDone (finish (run (s.started op o p))))
  /-- A frame by itself (41_sequencer.md R154 to R156). -/
  | frame (i : Instr) (payload : List Byte) (h : s.tx = none) : Executed s i (txn payload s)
  /-- A byte at the device's receiver (20_memory.md R61, 30_encoding.md R97). -/
  | device (i : Instr) (d : Device) (hd : d.gd = s.dev.gd) : Executed s i { s with dev := d }
  /-- The copy primitive (40_remap.md R130). -/
  | copied (i : Instr) (b : Byte) : Executed s i { s with copyOut := b }

theorem gd_commandTaken_eq (d : Device) : d.commandTaken.gd = d.gd := by
  unfold Device.commandTaken
  split <;> rfl

theorem operation_executed {i : Instr} {op : BitVec 3} {o : Operands} {check : State → Cause} {p : Pos}
    {run : State → State} {s t : State} (h : operation op o check p run s = .next t)
    (hs : ∀ u, u.burst = [] → ∃ ps, Sends ps u (run u)) (hb : ∀ u, u.burst = [] → (run u).burst = [])
    (hw : ∀ u, u.db.wf → (run u).db.wf) (hd : (∀ u, (run u).db = u.db) ∨ i = .convert o ∨ i = .clear o) :
    Executed s i t := by
  rcases operation_cases h with ⟨hi, rfl⟩ | ⟨hi, c, hc, -, rfl⟩ | ⟨hi, -, rfl⟩
  · exact .waits i hi
  · exact .rejected i op o c hi hc
  · obtain ⟨ps, hps⟩ := hs (s.started op o p) rfl
    exact .ran i op o p run ps hi hps (hb _ rfl) (hw (s.started op o p)) (hd.imp_left fun g => g (s.started op o p))

theorem oneFrame_executed {i : Instr} {payload : List Byte} {s t : State} (h : oneFrame payload s = .next t) :
    Executed s i t := by
  obtain ⟨hi, rfl⟩ := oneFrame_cases h
  exact .frame i payload hi

/-- The inversion of `exec`. -/
theorem exec_executed {i : Instr} {s t : State} (h : exec i s = .next t) : Executed s i t := by
  cases i with
  | convert o =>
    have h : operation 0#3 o convertCheck .cvInit runConvert s = .next t := h
    exact operation_executed h (fun u _ => ⟨_, runConvert_sends u⟩) (fun u e => (runConvert_rest u).2.2.trans e)
      (fun u => runConvert_wf) (.inr (.inl rfl))
  | flush o =>
    have h : operation 1#3 o flushCheck .flInit runFlush s = .next t := h
    exact operation_executed h (fun u _ => ⟨_, runFlush_sends u⟩) (fun u _ => (runFlush_rest u).2.2.2.2)
      (fun u e => by rwa [(runFlush_rest u).1]) (.inl fun u => (runFlush_rest u).1)
  | clear o =>
    have h : operation 2#3 o clearCheck .clInit runClear s = .next t := h
    exact operation_executed h (fun u _ => ⟨_, runClear_sends u⟩) (fun u e => (runClear_rest u).2.2.2.1.trans e)
      (fun u => (runClear_rest u).2.2.2.2) (.inr (.inr rfl))
  | blit o =>
    have h : operation 3#3 o blitCheck .blInit runBlit s = .next t := h
    exact operation_executed h (fun u _ => ⟨_, runBlit_sends u⟩) (fun u _ => (runBlit_rest u).2.2.2.2)
      (fun u e => by rwa [(runBlit_rest u).1]) (.inl fun u => (runBlit_rest u).1)
  | text o =>
    have h : operation 4#3 o textCheck .teInit runText s = .next t := h
    exact operation_executed h (fun u _ => ⟨_, (runText_spec u).sends⟩) (fun u _ => (runText_spec u).burst)
      (fun u e => by rwa [(runText_spec u).rest.1]) (.inl fun u => (runText_spec u).rest.1)
  | setColLow n =>
    cases h
    exact .device _ _ (gd_commandTaken_eq _)
  | setColHigh n =>
    cases h
    exact .device _ _ (gd_commandTaken_eq _)
  | setPage p =>
    cases h
    exact .device _ _ (gd_commandTaken_eq _)
  | ctrlCmdStream =>
    cases h
    exact .device _ _ rfl
  | ctrlCmdSingle =>
    cases h
    exact .device _ _ rfl
  | ctrlDataStream =>
    cases h
    exact .device _ _ rfl
  | fa p x =>
    have h : oneFrame (addrPayload s.cfg p x) s = .next t := h
    exact oneFrame_executed h
  | fd bytes =>
    simp only [exec, execFD] at h
    split at h
    · exact oneFrame_executed h
    · cases h
  | fc p =>
    have h : oneFrame (clearPayload s.cfg p) s = .next t := h
    exact oneFrame_executed h
  | copyBit src srcBit dst dstBit =>
    cases h
    exact .copied _ _

/-- A well-formed frame by itself is its transaction (30_encoding.md R98 to R100). -/
theorem exec_frame {i : Instr} {payload : List Byte} {s : State} (hw : i.wf = true)
    (he : encode s.cfg i = .payload payload) (ht : s.tx = none) : exec i s = .next (txn payload s) := by
  cases i <;> simp only [encode, Encoded.payload.injEq, reduceCtorEq] at he
  · subst he; simp [exec, execFA, oneFrame, ht, addrPayload]
  · subst he; simp [exec, execFD, oneFrame, ht, hw]
  · subst he; simp [exec, execFC, oneFrame, ht, clearPayload]

/-! ## Micro-steps -/

/-- A call on TX leaves the block's own registers alone. -/
theorem txCall_fixed (s : State) : (txCall s).cfg = s.cfg ∧ (txCall s).inbox = s.inbox ∧ (txCall s).opb = s.opb ∧
    (txCall s).phase = s.phase ∧ (txCall s).pos = s.pos ∧ (txCall s).latch = s.latch ∧ (txCall s).db = s.db ∧
    (txCall s).rmp = s.rmp ∧ (txCall s).serial = s.serial ∧ (txCall s).rst = s.rst := by
  unfold txCall
  split
  · simp
  · split <;> exact ⟨rfl, rfl, rfl, rfl, rfl, rfl, rfl, rfl, rfl, rfl⟩

theorem txCall_goto (s : State) (p : Pos) : txCall (s.goto p) = (txCall s).goto p := by
  simp only [txCall, goto_tx]
  cases s.tx with
  | none => rfl
  | some o => cases o with | mk a b st => cases st <;> rfl

/-- What a micro-step of a running operation can do: compute, begin a transaction, or end the operation. -/
inductive Ran (s : State) : State → Prop
  | silent (f : State → State) (p : Pos) (hs : Sends [] s (f s)) (hw : s.db.wf → (f s).db.wf)
      (hp : p.operation? = s.pos.operation?) : Ran s ((f s).goto p)
  | begins (payload : List Byte) (p : Pos) (hp : p.operation? = s.pos.operation?) : Ran s ((txBegin payload s).goto p)
  | ends (f : State → State) (hs : Sends [] s (f s)) (hw : s.db.wf → (f s).db.wf) : Ran s (finish (f s))

/-- The inversion of `runStep`. -/
theorem runStep_ran {s t : State} (h : runStep s = .next t) : Ran s t := by
  have stay : Sends [] s s := Sends.silent rfl
  unfold runStep at h
  split at h <;> rename_i hp
  · cases h; exact .silent cvInit _ (Sends.silent rfl) id (by rw [hp]; rfl)
  · cases h; exact .silent cvFetch _ (Sends.silent rfl) id (by rw [hp]; rfl)
  · cases h; exact .silent cvCopy _ (Sends.silent rfl) (fun h => setCell_wf h _ _ _) (by rw [hp]; rfl)
  · cases h; exact .silent cvSeg _ (Sends.silent rfl) id (by rw [hp]; split <;> rfl)
  · cases h; exact .silent cvIdx _ (Sends.silent rfl) id (by rw [hp]; split <;> rfl)
  · cases h; exact .silent (fun s => s) _ stay id (by rw [hp]; rfl)
  · cases h; exact .silent cvOff _ (Sends.silent rfl) id (by rw [hp]; rfl)
  · cases h; exact .silent cvDbit _ (Sends.silent rfl) id (by rw [hp]; rfl)
  · cases h; exact .silent cvRow _ (Sends.silent rfl) id (by rw [hp]; split <;> rfl)
  · cases h; exact .ends cvEnd (Sends.silent rfl) id
  · cases h; exact .silent flInit _ (Sends.silent rfl) id (by rw [hp]; rfl)
  · cases h; exact .silent flStart _ (Sends.silent rfl) id (by rw [hp]; rfl)
  · cases h; exact .silent flRead _ (Sends.silent rfl) id (by rw [hp]; split <;> rfl)
  · cases h; exact .begins _ _ (by rw [hp]; rfl)
  · cases h; exact .begins _ _ (by rw [hp]; rfl)
  · cases h; exact .silent flNext _ (Sends.silent rfl) id (by rw [hp]; split <;> rfl)
  · cases h; exact .ends (fun s => s) stay id
  · cases h; exact .silent clInit _ (Sends.silent rfl) id (by rw [hp]; rfl)
  · cases h; exact .silent clZero _ (clZero_sends s) clZero_wf (by rw [hp]; rfl)
  · cases h; exact .begins _ _ (by rw [hp]; rfl)
  · cases h; exact .silent clNext _ (Sends.silent rfl) id (by rw [hp]; split <;> rfl)
  · cases h; exact .ends (fun s => s) stay id
  · cases h; exact .silent blInit _ (Sends.silent rfl) id (by rw [hp]; rfl)
  · cases h; exact .silent blFetch _ (Sends.silent rfl) id (by rw [hp]; split <;> rfl)
  · cases h; exact .begins _ _ (by rw [hp]; rfl)
  · cases h; exact .begins _ _ (by rw [hp]; rfl)
  · cases h; exact .ends blEnd (Sends.silent rfl) id
  · cases h; exact .silent teInit _ (Sends.silent rfl) id (by rw [hp]; rfl)
  · cases h; exact .begins _ _ (by rw [hp]; rfl)
  · cases h
    refine .silent (fun s => s) _ stay id ?_
    rw [hp]
    split
    · rfl
    · split <;> rfl
  · cases h; exact .silent teAdvance _ (Sends.silent rfl) id (by rw [hp]; rfl)
  · cases h; exact .begins _ _ (by rw [hp]; rfl)
  · cases h; exact .silent teGlyph _ (Sends.silent rfl) id (by rw [hp]; split <;> rfl)
  · cases h; exact .begins _ _ (by rw [hp]; rfl)
  · cases h; exact .silent teNext _ (Sends.silent rfl) id (by rw [hp]; rfl)
  · cases h; exact .ends (fun s => s) stay id
  · cases h
  · cases h
  · cases h

/-- A running operation ends with the last micro-step of its rule and with no other (10_state.md R28). -/
theorem runStep_phase {s t : State} (h : runStep s = .next t) :
    t.phase = if s.pos ∈ [Pos.cvEnd, .flEnd, .clEnd, .blEnd, .teEnd] then .done else s.phase := by
  have hz := congrArg State.phase (clZero_frame s)
  unfold runStep at h
  generalize clZero s = z at h hz
  split at h <;> rename_i hp <;> cases h <;> rw [hp] <;> first | rfl | exact hz

/-- A running operation with no transaction open always makes its micro-step. -/
theorem runStep_next {s : State} (h : s.pos.operation? ≠ none) : ∃ t, runStep s = .next t := by
  unfold runStep
  split <;> first | exact ⟨_, rfl⟩ | (rename_i hp; rw [hp] at h; exact absurd rfl h)

/-- What CHECK does (10_state.md R28). -/
theorem checkStep_cases (reservedClear : Bool) (s : State) :
    (precondition reservedClear s = .none ∧ checkStep reservedClear s = start (firstPos s.latch.op) s) ∨
      ∃ c, c ≠ .none ∧ precondition reservedClear s = c ∧ checkStep reservedClear s = reject c s := by
  unfold checkStep
  split
  · rename_i h
    exact .inl ⟨h, rfl⟩
  · rename_i h
    exact .inr ⟨_, h, rfl, rfl⟩

/-- An operation that passes CHECK has an operation code that names it (30_encoding.md R91). -/
theorem firstPos_operation {reservedClear : Bool} {s : State} (h : precondition reservedClear s = .none) :
    (firstPos s.latch.op).operation? = some s.latch.op := by
  unfold precondition at h
  unfold firstPos
  split at h
  · split at h
    · rename_i e; rw [e]; rfl
    split at h
    · rename_i e; rw [e]; rfl
    split at h
    · rename_i e; rw [e]; rfl
    split at h
    · rename_i e; rw [e]; rfl
    split at h
    · rename_i e; rw [e]; rfl
    · cases h
  · cases h

/-- The inversion of `micro`. -/
theorem micro_cases {s t : State} (h : micro s = .next t) :
    (s.phase = .check ∧ ∃ b, s.pos = .checking b ∧ t = checkStep b s) ∨
      (s.phase = .run ∧ s.tx ≠ none ∧ t = txCall s) ∨ (s.phase = .run ∧ s.tx = none ∧ Ran s t) ∨
      (s.phase = .done ∧ s.pos = .finishing ∧ t = deliverDone s) := by
  unfold micro at h
  split at h <;> rename_i hp
  · split at h <;> rename_i hq
    · cases h; exact .inl ⟨hp, _, hq, rfl⟩
    · cases h
  · split at h <;> rename_i hq
    · cases h; exact .inr (.inl ⟨hp, by simp [hq], rfl⟩)
    · exact .inr (.inr (.inl ⟨hp, hq, runStep_ran h⟩))
  · split at h <;> rename_i hq
    · cases h; exact .inr (.inr (.inr ⟨hp, hq, rfl⟩))
    · cases h
  · cases h

/-! ## Steps -/

/-- What an idle block can do: nothing, or what the head of its queue says. -/
theorem idleStep_cases {s t : State} (h : idleStep s = .next t) :
    t = s ∨
      (∃ b rest, s.inbox = .rx b :: rest ∧ t = { s with inbox := rest, dev := s.dev.writeData s.cfg b }) ∨
      (∃ rest buf i, Executed { s with inbox := rest, opb := buf } i t) ∨
      (∃ rest buf w, t = rejectWord w { s with inbox := rest, opb := buf }) := by
  unfold idleStep at h
  split at h
  · cases h
    exact .inl rfl
  · cases h
    rename_i hf
    unfold fetch at hf
    split at hf <;> try cases hf
    split at hf <;> cases hf
    exact .inr (.inl ⟨_, _, by assumption, rfl⟩)
  · rename_i x u hf
    have hu : ∃ rest buf, u = { s with inbox := rest, opb := buf } := by
      unfold fetch at hf
      split at hf
      · cases hf
      · cases hf; exact ⟨_, _, rfl⟩
      · cases hf; exact ⟨_, s.opb, rfl⟩
      · split at hf <;> cases hf <;> exact ⟨_, s.opb, rfl⟩
      · cases hf; exact ⟨_, s.opb, rfl⟩
    obtain ⟨rest, buf, rfl⟩ := hu
    split at h
    · exact .inr (.inr (.inl ⟨_, _, _, exec_executed h⟩))
    · unfold illegal at h
      split at h <;> cases h
      exact .inr (.inr (.inr ⟨_, _, _, rfl⟩))

/-- A command word at the head of the queue is refused exactly where its operation reads a buffer that is too short. -/
theorem shortOperand_cmd {s : State} {w : CommandWord} {buf : List Byte} {rest : List Item}
    (h : s.inbox = .cmd w buf :: rest) :
    s.shortOperand = (readsOperand w s && decide (buf.length < w.operands.len.toNat)) := by
  simp [State.shortOperand, h]

/-- Nothing but a command word is. -/
theorem shortOperand_other {s : State} (h : ∀ w buf rest, s.inbox ≠ .cmd w buf :: rest) : s.shortOperand = false := by
  unfold State.shortOperand
  split
  · rename_i e
    exact absurd e (h _ _ _)
  · rfl

theorem convertCheck_none {s : State} : convertCheck s = .none ↔ s.latch.len = 1024#16 := by
  unfold convertCheck
  split <;> simp [*]

theorem blitCheck_none {s : State} : blitCheck s = .none ↔ s.latch.page.toNat ≤ 7 ∧ s.latch.seg.toNat ≤ 127 ∧
    1 ≤ s.latch.width.toNat ∧ s.latch.seg.toNat + s.latch.width.toNat ≤ 128 ∧
    s.latch.width.toNat ≤ s.latch.len.toNat := by
  unfold blitCheck
  split
  · simp only [reduceCtorEq, false_iff]
    omega
  split
  · simp only [reduceCtorEq, false_iff]
    omega
  split
  · simp only [reduceCtorEq, false_iff]
    omega
  · simp only [true_iff]
    omega

/-- What `readsOperand` asks, by the fields of the word (40_remap.md R134, 42_reader_flush_blit.md R178, 43_text.md R190). -/
theorem readsOperand_iff {w : CommandWord} {s : State} : readsOperand w s = true ↔ w.reservedClear = true ∧
    ((w.op = 0#3 ∧ w.operands.len = 1024#16) ∨
      (w.op = 3#3 ∧ w.operands.page.toNat ≤ 7 ∧ w.operands.seg.toNat ≤ 127 ∧ 1 ≤ w.operands.width.toNat ∧
        w.operands.seg.toNat + w.operands.width.toNat ≤ 128 ∧ w.operands.width.toNat ≤ w.operands.len.toNat) ∨
      w.op = 4#3) := by
  have h0 := convertCheck_none (s := acceptWord w s)
  have h3 := blitCheck_none (s := acceptWord w s)
  simp only [readsOperand, Bool.and_eq_true, h0, h3]
  refine and_congr_right fun _ => ?_
  split
  · rename_i e
    simp [e, acceptWord, accept]
  split
  · rename_i e
    simp [e, acceptWord, accept]
  · simp_all

theorem step_idle {s : State} (h1 : s.rst = false) (h2 : s.cfg.wf = true) (h3 : s.phase = .idle)
    (h4 : s.shortOperand = false) : step s = idleStep s := by
  simp [step, h1, h2, h3, h4]

theorem step_short {s : State} (h1 : s.rst = false) (h2 : s.cfg.wf = true) (h3 : s.phase = .idle)
    (h4 : s.shortOperand = true) : step s = .refused .shortOperandBuffer := by
  simp [step, h1, h2, h3, h4]

/-- The buffer an encoding is presented with answers what OPB answered before. -/
theorem buffer_opbByte (x : Encoded) (s : State) (i : Nat) :
    ({ s with opb := Encoded.buffer x s } : State).opbByte i = s.opbByte i := by
  cases x with
  | word w =>
    simp only [State.opbByte, Encoded.buffer, List.getElem?_append, List.getElem?_map]
    by_cases h : i < s.opb.length
    · rw [if_pos h]
    rw [if_neg h, List.getElem?_eq_none (l := s.opb) (by omega)]
    by_cases g : i - s.opb.length < w.operands.len.toNat - s.opb.length
    · rw [List.getElem?_range' g]
      simp only [Option.map_some, Option.getD_some, Option.getD_none]
      congr 1
      omega
    · rw [List.getElem?_eq_none (by simpa using g)]
      rfl
  | payload | control | command | bitCopy => rfl

/-- It is as long as the command word says. -/
theorem buffer_length (w : CommandWord) (s : State) :
    w.operands.len.toNat ≤ (Encoded.buffer (.word w) s).length := by
  simp [Encoded.buffer]
  omega

/-- So what is offered as `withFetchWord` offers it is never refused for its buffer. -/
theorem offering_shortOperand (s : State) (x : Encoded) : (s.offering x).shortOperand = false := by
  cases x with
  | word w =>
    rw [shortOperand_cmd (w := w) (buf := Encoded.buffer (.word w) s) (rest := s.inbox) rfl]
    have := buffer_length w s
    simp
    omega
  | payload | control | command | bitCopy => rfl

/-- The inversion of `step`. -/
theorem step_cases {s t : State} (h : step s = .next t) :
    (s.cfg.wf = true ∧ s.rst = true ∧ t = blockReset s) ∨
      (s.rst = false ∧ s.cfg.wf = true ∧ s.phase = .idle ∧ s.shortOperand = false ∧ idleStep s = .next t) ∨
      (s.rst = false ∧ s.cfg.wf = true ∧ s.phase ≠ .idle ∧ micro s = .next t) := by
  unfold step at h
  split at h <;> rename_i hc
  · split at h <;> rename_i hr
    · cases h
      exact .inl ⟨hc, hr, rfl⟩
    · have hr : s.rst = false := by simpa using hr
      split at h <;> rename_i hi
      · split at h
        · cases h
        · rename_i hs
          exact .inr (.inl ⟨hr, hc, hi, by simpa using hs, h⟩)
      · exact .inr (.inr ⟨hr, hc, hi, h⟩)
  · cases h

/-- A tick is a step, except that an idle block only takes a command word (10_state.md R31). -/
theorem tick_cases {s t : State} (h : tick s = .next t) :
    step s = .next t ∨
      (s.phase = .idle ∧ ∃ rest buf w, s.inbox = .cmd w buf :: rest ∧
        t = acceptWord w { s with inbox := rest, opb := buf }) := by
  unfold tick at h
  split at h
  · rename_i hi
    split at h
    · cases h
      exact .inr ⟨hi.2.2.1, _, _, _, by assumption, rfl⟩
    · exact .inl h
  · exact .inl h

end Sys2Proof.Machine
end

