-- ==== Sys2Proof/Laws/Micro.lean ====
section
/-! SUPPORT. The micro-steps of each operation in a row: from the operation's first position the block ticks, busy all the
way, to the state its function gives (00_scope.md R8; 10_state.md R28). -/

namespace Sys2Proof.Machine

/-! ## Chains of ticks -/

/-- One tick to a busy block. -/
def BusyTick (a b : State) : Prop := tick a = .next b ∧ b.phase ≠ .idle

/-- Any number of them. -/
abbrev BusyTicks := Relation.ReflTransGen BusyTick

/-- A running block with no transaction open and no reset asserted. -/
def Running (s : State) : Prop := s.rst = false ∧ s.cfg.wf = true ∧ s.phase = .run ∧ s.tx = none

theorem Running.sends {payloads : List (List Byte)} {s t : State} (g : Running s) (h : Sends payloads s t) : Running t :=
  ⟨h.outside.2.2.2.1.trans g.1, by rw [h.fixed.1]; exact g.2.1, h.fixed.2.2.1.trans g.2.2.1, h.closed g.2.2.2⟩

theorem tick_busy {s : State} (h1 : s.rst = false) (h2 : s.cfg.wf = true) (h3 : s.phase ≠ .idle) :
    tick s = micro s := by
  simp [tick, step, h1, h2, h3]

theorem Running.tick {s : State} (g : Running s) : tick s = runStep s := by
  rw [tick_busy g.1 g.2.1 (by rw [g.2.2.1]; decide)]
  simp [micro, g.2.2.1, g.2.2.2]

theorem Running.one {a b : State} (g : Running a) (h : runStep a = .next b) (hb : b.phase ≠ .idle) :
    BusyTicks a b :=
  .single ⟨by rw [g.tick, h], hb⟩

/-- An open transaction's next call is one tick. -/
theorem busyTick_txCall {s : State} (h1 : s.rst = false) (h2 : s.cfg.wf = true) (h3 : s.phase = .run)
    (h4 : s.tx ≠ none) : BusyTick s (txCall s) := by
  refine ⟨?_, by rw [(txCall_fixed s).2.2.2.1, h3]; decide⟩
  rw [tick_busy h1 h2 (by rw [h3]; decide)]
  cases ht : s.tx with
  | none => exact absurd ht h4
  | some o => simp [micro, h3, ht]

/-- A micro-step that needs a transaction: its four calls, then the next position (30_encoding.md R96). -/
theorem Running.transaction {x : State} {payload : List Byte} {P Q : Pos} (g : Running x)
    (h : runStep (x.goto P) = .next ((txBegin payload (x.goto P)).goto Q)) :
    BusyTicks (x.goto P) ((txn payload x).goto Q) := by
  have e : (txn payload x).goto Q = txCall (txCall (txCall ((txBegin payload (x.goto P)).goto Q))) := by
    simp only [txCall_goto, txn]
    rfl
  rw [e]
  have b0 : ((txBegin payload (x.goto P)).goto Q).tx ≠ none := by simp [txBegin]
  have b1 : (txCall ((txBegin payload (x.goto P)).goto Q)).tx ≠ none := by simp [txBegin, txCall, txAddress]
  have b2 : (txCall (txCall ((txBegin payload (x.goto P)).goto Q))).tx ≠ none := by
    simp [txBegin, txCall, txAddress, txBytes]
  refine .trans (Running.one (a := x.goto P) g h (by simp [g.2.2.1])) ?_
  have hu1 : ((txBegin payload (x.goto P)).goto Q).rst = false := g.1
  have hu2 : ((txBegin payload (x.goto P)).goto Q).cfg.wf = true := g.2.1
  have hu3 : ((txBegin payload (x.goto P)).goto Q).phase = .run := g.2.2.1
  generalize (txBegin payload (x.goto P)).goto Q = u at *
  obtain ⟨f1, -, -, f4, -, -, -, -, -, f10⟩ := txCall_fixed u
  obtain ⟨k1, -, -, k4, -, -, -, -, -, k10⟩ := txCall_fixed (txCall u)
  exact ((Relation.ReflTransGen.single (busyTick_txCall hu1 hu2 hu3 b0)).tail
    (busyTick_txCall (f10.trans hu1) (by rw [f1, hu2]) (f4.trans hu3) b1)).tail
    (busyTick_txCall (k10.trans (f10.trans hu1)) (by rw [k1, f1, hu2]) (k4.trans (f4.trans hu3)) b2)

/-- A micro-step that makes no transaction. -/
theorem Running.silent {x : State} {f : State → State} {P Q : Pos} (g : Running x) (hs : Sends [] x (f x))
    (h : runStep (x.goto P) = .next ((f x).goto Q)) : BusyTicks (x.goto P) ((f x).goto Q) :=
  Running.one (a := x.goto P) g h (by rw [goto_phase, hs.fixed.2.2.1, g.2.2.1]; decide)

/-- The last micro-step of an operation. -/
theorem Running.ends {x : State} {P : Pos} (g : Running x) (h : runStep (x.goto P) = .next (finish (x.goto P))) :
    BusyTicks (x.goto P) (finish x) :=
  Running.one (a := x.goto P) g h (by simp [finish])

/-- A counted loop: `N` rounds from position `P`, leaving to `Q` after the last. -/
theorem busyTicks_loop {P Q : Pos} {N : Nat} (hN : 0 < N) (x : Nat → State)
    (h : ∀ k, k < N → BusyTicks ((x k).goto P) ((x (k + 1)).goto (if k + 1 = N then Q else P))) :
    BusyTicks ((x 0).goto P) ((x N).goto Q) := by
  have rounds : ∀ k, k < N → BusyTicks ((x 0).goto P) ((x k).goto P) := by
    intro k
    induction k with
    | zero => intro _; exact .refl
    | succ k ih =>
      intro hk
      have := h k (by omega)
      rw [if_neg (by omega)] at this
      exact (ih (by omega)).trans this
  have last := h (N - 1) (by omega)
  rw [if_pos (by omega), show N - 1 + 1 = N by omega] at last
  exact (rounds (N - 1) (by omega)).trans last

/-- `ticks` follows a chain. -/
theorem ticks_succ {n : Nat} {a b c : State} (h : ticks n a = .next b) (h2 : tick b = .next c) :
    ticks (n + 1) a = .next c := by
  induction n generalizing a with
  | zero =>
    cases h
    simp [ticks, h2]
  | succ n ih =>
    rw [ticks] at h ⊢
    split at h
    · exact ih h
    · cases h
    · cases h

theorem BusyTicks.ticks {a b : State} (h : BusyTicks a b) :
    ∃ n, ticks n a = .next b ∧ ∀ k, 0 < k → k ≤ n → ∃ u, Machine.ticks k a = .next u ∧ u.phase ≠ .idle := by
  induction h with
  | refl => exact ⟨0, rfl, fun k h1 h2 => absurd h1 (by omega)⟩
  | tail _ hr ih =>
    obtain ⟨n, h1, h2⟩ := ih
    refine ⟨n + 1, ticks_succ h1 hr.1, fun k hk hk' => ?_⟩
    by_cases hkn : k ≤ n
    · exact h2 k hk hkn
    · obtain rfl : k = n + 1 := by omega
      exact ⟨_, ticks_succ h1 hr.1, hr.2⟩

/-! ## CONVERT -/
theorem cvBit_ticks {x : State} (g : Running x) :
    BusyTicks (x.goto .cvCopy) ((cvBit x).goto (if x.rmp.sbit = 0#3 then .cvIdx else .cvCopy)) := by
  have h1 : BusyTicks (x.goto .cvCopy) ((cvCopy x).goto .cvSeg) := Running.silent g (Sends.silent rfl) rfl
  have g1 : Running (cvCopy x) := g.sends (Sends.silent (s := x) rfl)
  exact h1.trans (Running.silent g1 (Sends.silent rfl) rfl)

theorem SameButRemap.sends {s t} (h : SameButRemap s t) : Sends [] s t := Sends.silent (by rw [h])

theorem cvBits_ticks {x : State} (g : Running x) (h7 : x.rmp.sbit = 7#3) :
    BusyTicks (x.goto .cvCopy) ((cvBit^[8] x).goto .cvIdx) := by
  refine busyTicks_loop (N := 8) (by omega) (fun k => cvBit^[k] x) fun k hk => ?_
  have gk : Running (cvBit^[k] x) := g.sends (SameButRemap.sends (SameButRemap.iterate cvBit_frame k x))
  have := cvBit_ticks gk
  rw [Function.iterate_succ_apply']
  have e : (cvBit^[k] x).rmp.sbit = 0#3 ↔ k + 1 = 8 := by
    rw [cvBits_rmp, h7]
    have : ∀ k < 8, 7#3 - BitVec.ofNat 3 k = 0#3 ↔ k + 1 = 8 := by decide
    exact this k hk
  simp only [e] at this
  exact this

theorem cvFetch_ticks {x : State} (g : Running x) :
    BusyTicks (x.goto .cvFetch) ((cvFetch x).goto .cvCopy) := Running.silent g (Sends.silent rfl) rfl
theorem cvIdx_ticks {x : State} (g : Running x) :
    BusyTicks (x.goto .cvIdx) ((cvIdx x).goto (if x.rmp.idx = 15#4 then .cvYield else .cvFetch)) :=
  Running.silent g (Sends.silent rfl) rfl

theorem cvByte_ticks {x : State} (g : Running x) :
    BusyTicks (x.goto .cvFetch) ((cvByte x).goto (if x.rmp.idx = 15#4 then .cvYield else .cvFetch)) := by
  have g1 : Running (cvFetch x) := g.sends (SameButRemap.sends (cvFetch_frame x))
  have h2 := cvBits_ticks g1 (by rw [cvFetch_rmp])
  have hi : (cvBit^[8] (cvFetch x)).rmp.idx = x.rmp.idx := by rw [cvBits_rmp, cvFetch_rmp]
  have gy : Running (cvBit^[8] (cvFetch x)) := g1.sends (SameButRemap.sends (SameButRemap.iterate cvBit_frame 8 _))
  have h3 := cvIdx_ticks gy
  rw [hi] at h3
  unfold cvByte
  exact ((cvFetch_ticks g).trans h2).trans h3

theorem cvBytes_ticks {x : State} (g : Running x) (hi : x.rmp.idx = 0#4) (hs : x.rmp.seg = 0#7) :
    BusyTicks (x.goto .cvFetch) ((cvByte^[16] x).goto .cvYield) := by
  refine busyTicks_loop (N := 16) (by omega) (fun k => cvByte^[k] x) fun k hk => ?_
  have gk : Running (cvByte^[k] x) := g.sends (SameButRemap.sends (SameButRemap.iterate cvByte_frame k x))
  have := cvByte_ticks gk
  rw [Function.iterate_succ_apply']
  have e : (cvByte^[k] x).rmp.idx = 15#4 ↔ k + 1 = 16 := by
    rw [(cvBytes_rmp x k hi hs).1.1]
    have : ∀ k < 16, BitVec.ofNat 4 k = 15#4 ↔ k + 1 = 16 := by decide
    exact this k hk
  simp only [e] at this
  exact this

theorem cvRowEnd_ticks {x : State} (g : Running x) :
    BusyTicks (x.goto .cvYield) ((cvRow (cvDbit (cvOff x))).goto
        (if x.rmp.row = 63#6 then .cvEnd else .cvFetch)) :=
    by
  have h1 :
      BusyTicks (x.goto .cvYield) (x.goto .cvOff) := Running.silent (f := fun x => x) g (Sends.silent rfl) rfl
  have h2 : BusyTicks (x.goto .cvOff) ((cvOff x).goto .cvDbit) := Running.silent g (Sends.silent rfl) rfl
  have g2 : Running (cvOff x) := g
  have h3 :
      BusyTicks ((cvOff x).goto .cvDbit) ((cvDbit (cvOff x)).goto .cvRow) := Running.silent g2 (Sends.silent rfl) rfl
  have g3 : Running (cvDbit (cvOff x)) := g
  have h4 :
      BusyTicks ((cvDbit (cvOff x)).goto .cvRow) ((cvRow (cvDbit (cvOff x))).goto
        (if x.rmp.row = 63#6 then .cvEnd else .cvFetch)) :=
    Running.silent g3 (Sends.silent rfl) rfl
  exact ((h1.trans h2).trans h3).trans h4

theorem cvRow_ticks {x : State} (g : Running x) (hi : x.rmp.idx = 0#4) (hs : x.rmp.seg = 0#7) :
    BusyTicks (x.goto .cvFetch) ((cvWholeRow x).goto (if x.rmp.row = 63#6 then .cvEnd else .cvFetch)) := by
  have h1 := cvBytes_ticks g hi hs
  have gy : Running (cvByte^[16] x) := g.sends (SameButRemap.sends (SameButRemap.iterate cvByte_frame 16 x))
  have h2 := cvRowEnd_ticks gy
  rw [(cvBytes_rmp x 16 hi hs).2.1] at h2
  unfold cvWholeRow
  exact h1.trans h2

theorem cvRows_ticks {x : State} (g : Running x) :
    BusyTicks ((cvInit x).goto .cvFetch) ((cvWholeRow^[64] (cvInit x)).goto .cvEnd) := by
  refine busyTicks_loop (N := 64) (by omega) (fun k => cvWholeRow^[k] (cvInit x)) fun k hk => ?_
  obtain ⟨r1, r2, r3, -⟩ := cvRows_rmp x k
  have gk : Running (cvWholeRow^[k] (cvInit x)) := g.sends (SameButRemap.sends (cvRows_frame x k))
  have := cvRow_ticks gk r2 r3
  rw [Function.iterate_succ_apply']
  have e : (cvWholeRow^[k] (cvInit x)).rmp.row = 63#6 ↔ k + 1 = 64 := by
    rw [r1]
    have : ∀ k < 64, BitVec.ofNat 6 k = 63#6 ↔ k + 1 = 64 := by decide
    exact this k hk
  simp only [e] at this
  exact this

/-- Step 7 of CONVERT is one micro-step, which ends the operation. -/
theorem cvEnd_ticks {y : State} (g : Running y) : BusyTicks (y.goto .cvEnd) (finish (cvEnd y)) :=
  Running.one (a := y.goto .cvEnd) g rfl (by simp [finish])

/-- The micro-steps of CONVERT (40_remap.md R136) lead to what its function gives. -/
theorem runConvert_ticks {x : State} (g : Running x) : BusyTicks (x.goto .cvInit) (finish (runConvert x)) := by
  have h1 : BusyTicks (x.goto .cvInit) ((cvInit x).goto .cvFetch) := Running.silent g (Sends.silent rfl) rfl
  have gr : Running (cvWholeRow^[64] (cvInit x)) := g.sends (SameButRemap.sends (cvRows_frame x 64))
  rw [runConvert]
  exact (h1.trans (cvRows_ticks g)).trans (cvEnd_ticks gr)

/-! ## FLUSH -/
theorem flReads_ticks {x : State} (g : Running x) :
    BusyTicks (x.goto .flStart) ((flRead^[128] (flStart x)).goto .flAddr) := by
  have h1 : BusyTicks (x.goto .flStart) ((flStart x).goto .flRead) := Running.silent g (Sends.silent rfl) rfl
  refine h1.trans ?_
  refine busyTicks_loop (N := 128) (by omega) (fun k => flRead^[k] (flStart x)) fun k hk => ?_
  have gk : Running (flRead^[k] (flStart x)) := by rw [flReads]; exact g
  have hr : (flRead^[k] (flStart x)).rdr.rseg = BitVec.ofNat 7 k := by rw [flReads]
  rw [Function.iterate_succ_apply']
  generalize flRead^[k] (flStart x) = y at *
  have :
      BusyTicks (y.goto .flRead) ((flRead y).goto (if y.rdr.rseg = 127#7 then .flAddr else .flRead)) :=
    Running.silent gk (Sends.silent rfl) rfl
  have e : y.rdr.rseg = 127#7 ↔ k + 1 = 128 := by
    rw [hr]
    have : ∀ k < 128, BitVec.ofNat 7 k = 127#7 ↔ k + 1 = 128 := by decide +kernel
    exact this k hk
  simp only [e] at this
  exact this

theorem flushSend_ticks {x : State} (g : Running x) :
    BusyTicks (x.goto .flAddr) ((flNext (dataBurst (flAddr x))).goto (if x.rdr.rpage = 7#3 then .flEnd else .flStart)) :=
    by
  have h1 : BusyTicks (x.goto .flAddr) ((flAddr x).goto .flData) := Running.transaction g rfl
  have g1 : Running (flAddr x) := g.sends (Sends.txn _ x)
  have e1 : (flAddr x).rdr = x.rdr := txn_rdr x _
  generalize flAddr x = y at *
  have h2 : BusyTicks (y.goto .flData) ((dataBurst y).goto .flNext) := Running.transaction g1 rfl
  have g2 : Running (dataBurst y) := g1.sends (Sends.txn _ y)
  have e2 : (dataBurst y).rdr = y.rdr := txn_rdr y _
  generalize dataBurst y = z at *
  have h3 :
      BusyTicks (z.goto .flNext) ((flNext z).goto (if z.rdr.rpage = 7#3 then .flEnd else .flStart)) :=
    Running.silent g2 (Sends.silent rfl) rfl
  rw [e2, e1] at h3
  exact (h1.trans h2).trans h3

theorem flushPage_ticks {x : State} (g : Running x) :
    BusyTicks (x.goto .flStart) ((flushPage x).goto (if x.rdr.rpage = 7#3 then .flEnd else .flStart)) := by
  have h1 := flReads_ticks g
  have gy : Running (flRead^[128] (flStart x)) := by rw [flReads]; exact g
  have h2 := flushSend_ticks gy
  have e : (flRead^[128] (flStart x)).rdr.rpage = x.rdr.rpage := by rw [flReads]
  rw [e] at h2
  unfold flushPage
  exact h1.trans h2

/-- The micro-steps of FLUSH (42_reader_flush_blit.md R174) lead to what its function gives. -/
theorem runFlush_ticks {x : State} (g : Running x) : BusyTicks (x.goto .flInit) (finish (runFlush x)) := by
  have h1 : BusyTicks (x.goto .flInit) ((flInit x).goto .flStart) := Running.silent g (Sends.silent rfl) rfl
  have gr : Running (runFlush x) := g.sends (runFlush_sends x)
  refine (h1.trans ?_).trans (Running.ends (P := .flEnd) gr rfl)
  unfold runFlush
  refine busyTicks_loop (N := 8) (by omega) (fun k => flushPage^[k] (flInit x)) fun k hk => ?_
  obtain ⟨r1, r2, r3, -⟩ := flushPages x k
  have := flushPage_ticks (g.sends r1)
  rw [Function.iterate_succ_apply']
  have e : (flushPage^[k] (flInit x)).rdr.rpage = 7#3 ↔ k + 1 = 8 := by
    rw [r3]
    have : ∀ k < 8, BitVec.ofNat 3 k = 7#3 ↔ k + 1 = 8 := by decide
    exact this k hk
  simp only [e] at this
  exact this

/-! ## CLEAR -/
theorem clearSend_ticks {x : State} (g : Running x) :
    BusyTicks (x.goto .clFrame) ((clNext (clFrame x)).goto (if x.rdr.rpage = 7#3 then .clEnd else .clZero)) := by
  have h1 : BusyTicks (x.goto .clFrame) ((clFrame x).goto .clNext) := Running.transaction g rfl
  have g1 : Running (clFrame x) := g.sends (Sends.txn _ x)
  have e1 : (clFrame x).rdr = x.rdr := txn_rdr x _
  generalize clFrame x = y at *
  have h3 :
      BusyTicks (y.goto .clNext) ((clNext y).goto (if y.rdr.rpage = 7#3 then .clEnd else .clZero)) :=
    Running.silent g1 (Sends.silent rfl) rfl
  rw [e1] at h3
  exact h1.trans h3

theorem clZero_goto (x : State) (p : Pos) : clZero (x.goto p) = (clZero x).goto p := by
  unfold clZero
  rw [goto_rdr]
  generalize x.rdr.rpage = q
  generalize List.range 128 = l
  induction l generalizing x with
  | nil => rfl
  | cons a l ih => simp only [List.foldl_cons]; exact ih (x.setCell q (BitVec.ofNat 7 a) 0x00#8)

theorem clearPage_ticks {x : State} (g : Running x) :
    BusyTicks (x.goto .clZero) ((clearPage x).goto (if x.rdr.rpage = 7#3 then .clEnd else .clZero)) := by
  have h1 : BusyTicks (x.goto .clZero) ((clZero x).goto .clFrame) := by
    refine Running.silent g (clZero_sends x) ?_
    have k : ∀ y : State, y.pos = .clZero → runStep y = .next ((clZero y).goto .clFrame) := fun y h => by
      unfold runStep; rw [h]
    have gg : ∀ (y : State) p q, (y.goto p).goto q = y.goto q := fun _ _ _ => rfl
    rw [k _ rfl, clZero_goto, gg]
  have h2 := clearSend_ticks (g.sends (clZero_sends x))
  rw [(clZero_rest x).2.1] at h2
  unfold clearPage
  exact h1.trans h2

/-- The micro-steps of CLEAR (44_clear.md R200) lead to what its function gives. -/
theorem runClear_ticks {x : State} (g : Running x) : BusyTicks (x.goto .clInit) (finish (runClear x)) := by
  have h1 : BusyTicks (x.goto .clInit) ((clInit x).goto .clZero) := Running.silent g (Sends.silent rfl) rfl
  have gr : Running (runClear x) := g.sends (runClear_sends x)
  refine (h1.trans ?_).trans (Running.ends (P := .clEnd) gr rfl)
  unfold runClear
  refine busyTicks_loop (N := 8) (by omega) (fun k => clearPage^[k] (clInit x)) fun k hk => ?_
  obtain ⟨r1, r2, -⟩ := clearPages x k (by omega)
  have := clearPage_ticks (g.sends r1)
  rw [Function.iterate_succ_apply']
  have e : (clearPage^[k] (clInit x)).rdr.rpage = 7#3 ↔ k + 1 = 8 := by
    rw [r2]
    have : ∀ k < 8, BitVec.ofNat 3 k = 7#3 ↔ k + 1 = 8 := by decide
    exact this k hk
  simp only [e] at this
  exact this

/-! ## BLIT -/
theorem blitSend_ticks {x : State} (g : Running x) :
    BusyTicks (x.goto .blAddr) (finish (blEnd (dataBurst (blAddr x)))) := by
  have h1 : BusyTicks (x.goto .blAddr) ((blAddr x).goto .blData) := Running.transaction g rfl
  have g1 : Running (blAddr x) := g.sends (Sends.txn _ x)
  generalize blAddr x = y at *
  have h2 : BusyTicks (y.goto .blData) ((dataBurst y).goto .blEnd) := Running.transaction g1 rfl
  have g2 : Running (dataBurst y) := g1.sends (Sends.txn _ y)
  generalize dataBurst y = z at *
  have h3 :
      BusyTicks (z.goto .blEnd) (finish (blEnd z)) := Running.one (a := z.goto .blEnd) g2 rfl (by simp [finish])
  exact (h1.trans h2).trans h3

/-- The micro-steps of BLIT, on operands that pass its checks (42_reader_flush_blit.md R178) lead to what its function gives. -/
theorem runBlit_ticks {x : State} (g : Running x) (hw : 0 < x.latch.width.toNat) :
    BusyTicks (x.goto .blInit) (finish (runBlit x)) := by
  have h1 : BusyTicks (x.goto .blInit) ((blInit x).goto .blFetch) := Running.silent g (Sends.silent rfl) rfl
  have h2 : BusyTicks ((blInit x).goto .blFetch) ((blFetch^[x.latch.width.toNat] (blInit x)).goto .blAddr) := by
    refine busyTicks_loop (N := x.latch.width.toNat) hw (fun k => blFetch^[k] (blInit x)) fun k hk => ?_
    have hl := x.latch.width.isLt
    have gk : Running (blFetch^[k] (blInit x)) := by rw [blFetches x k (by omega)]; exact g
    have hc : (blFetch^[k] (blInit x)).seq.cidx = BitVec.ofNat 16 k := by rw [blFetches x k (by omega)]
    have hll : (blFetch^[k] (blInit x)).latch = x.latch := by rw [blFetches x k (by omega)]
    rw [Function.iterate_succ_apply']
    generalize blFetch^[k] (blInit x) = y at *
    have :
        BusyTicks (y.goto .blFetch) ((blFetch y).goto
          (if y.seq.cidx + 1#16 = y.latch.width.setWidth 16 then .blAddr else .blFetch)) :=
      Running.silent gk (Sends.silent rfl) rfl
    have e : y.seq.cidx + 1#16 = y.latch.width.setWidth 16 ↔ k + 1 = x.latch.width.toNat := by
      rw [hc, hll, ← BitVec.toNat_inj]
      simp only [BitVec.toNat_add, BitVec.toNat_ofNat, BitVec.toNat_setWidth]
      omega
    simp only [e] at this
    exact this
  have gy : Running (blFetch^[x.latch.width.toNat] (blInit x)) := by rw [blFetches x _ (width_lt _)]; exact g
  unfold runBlit
  exact (h1.trans h2).trans (blitSend_ticks gy)

/-! ## TEXT -/
theorem teGlyphs_ticks {x : State} (g : Running x) (hg : x.seq.gidx = 0#3) :
    BusyTicks (x.goto .teGlyph) ((teGlyph^[8] x).goto .teData) := by
  refine busyTicks_loop (N := 8) (by omega) (fun k => teGlyph^[k] x) fun k hk => ?_
  have gk : Running (teGlyph^[k] x) := by rw [teGlyphs]; exact g
  have hr : (teGlyph^[k] x).seq.gidx = BitVec.ofNat 3 k := by rw [teGlyphs]; simp [hg]
  rw [Function.iterate_succ_apply']
  generalize teGlyph^[k] x = y at *
  have :
      BusyTicks (y.goto .teGlyph) ((teGlyph y).goto (if y.seq.gidx = 7#3 then .teData else .teGlyph)) :=
    Running.silent gk (Sends.silent rfl) rfl
  have e : y.seq.gidx = 7#3 ↔ k + 1 = 8 := by
    rw [hr]
    have : ∀ k < 8, BitVec.ofNat 3 k = 7#3 ↔ k + 1 = 8 := by decide
    exact this k hk
  simp only [e] at this
  exact this

theorem teNext_ticks {x : State} (g : Running x) :
    BusyTicks (x.goto .teNext) ((teNext x).goto .teChar) := Running.silent g (Sends.silent rfl) rfl

theorem textChar_ticks {x : State} (g : Running x) (hg : x.seq.gidx = 0#3) (hc : x.seq.cidx ≠ x.latch.len) :
    BusyTicks (x.goto .teChar) ((textChar x).goto .teChar) := by
  have h0 : BusyTicks (x.goto .teChar) (x.goto (if x.char = x.cfg.nl then .teAdvance else .teGlyph)) := by
    refine Running.silent (f := fun x => x) g (Sends.silent rfl) ?_
    have : runStep (x.goto .teChar) = .next (x.goto (if x.seq.cidx = x.latch.len then .teEnd
        else if x.char = x.cfg.nl then .teAdvance else .teGlyph)) := rfl
    rw [this, if_neg hc]
  unfold textChar
  by_cases hn : x.char = x.cfg.nl
  · rw [if_pos hn] at h0 ⊢
    have h1 : BusyTicks (x.goto .teAdvance) ((teAdvance x).goto .teAddr) := Running.silent g (Sends.silent rfl) rfl
    have g1 : Running (teAdvance x) := g
    generalize teAdvance x = y at *
    have h2 : BusyTicks (y.goto .teAddr) ((teAddr y).goto .teNext) := Running.transaction g1 rfl
    have g2 : Running (teAddr y) := g1.sends (Sends.txn _ y)
    exact ((h0.trans h1).trans h2).trans (teNext_ticks g2)
  · rw [if_neg hn] at h0 ⊢
    have h1 := teGlyphs_ticks g hg
    have g1 : Running (teGlyph^[8] x) := by rw [teGlyphs]; exact g
    generalize teGlyph^[8] x = y at *
    have h2 : BusyTicks (y.goto .teData) ((dataBurst y).goto .teNext) := Running.transaction g1 rfl
    have g2 : Running (dataBurst y) := g1.sends (Sends.txn _ y)
    exact ((h0.trans h1).trans h2).trans (teNext_ticks g2)

/-- The micro-steps of TEXT (43_text.md R190) lead to what its function gives. -/
theorem runText_ticks {x : State} (g : Running x) : BusyTicks (x.goto .teInit) (finish (runText x)) := by
  have h1 : BusyTicks (x.goto .teInit) ((teInit x).goto .teHome) := Running.silent g (Sends.silent rfl) rfl
  have g1 : Running (teInit x) := g
  have h2 : BusyTicks ((teInit x).goto .teHome) ((teAddr (teInit x)).goto .teChar) := Running.transaction g1 rfl
  have h3 : ∀ n, n ≤ x.latch.len.toNat →
      BusyTicks ((teAddr (teInit x)).goto .teChar) ((textChar^[n] (teAddr (teInit x))).goto .teChar) := by
    intro n
    induction n with
    | zero => intro _; exact .refl
    | succ n ih =>
      intro hn
      have hl := x.latch.len.isLt
      have a := textAt x n (by omega)
      rw [Function.iterate_succ_apply']
      refine (ih (by omega)).trans (textChar_ticks (g.sends a.sends) a.gidx ?_)
      rw [a.cidx, a.sends.fixed.2.1]
      intro e
      have := congrArg BitVec.toNat e
      rw [BitVec.toNat_ofNat] at this
      omega
  have gr : Running (runText x) := g.sends (runText_spec x).sends
  have h4 : BusyTicks ((runText x).goto .teChar) ((runText x).goto .teEnd) := by
    have a := runText_spec x
    have hc : (runText x).seq.cidx = (runText x).latch.len := by rw [a.cidx, a.sends.fixed.2.1]; simp
    generalize runText x = y at *
    refine Running.silent (f := fun x => x) gr (Sends.silent rfl) ?_
    have : runStep (y.goto .teChar) = .next (y.goto (if y.seq.cidx = y.latch.len then .teEnd
        else if y.char = y.cfg.nl then .teAdvance else .teGlyph)) := rfl
    rw [this, if_pos hc]
  exact (((h1.trans h2).trans (h3 _ (Nat.le_refl _))).trans h4).trans (Running.ends (P := .teEnd) gr rfl)

end Sys2Proof.Machine
end

