-- ==== Sys2Proof/Laws/PerInstr.lean ====
section
/-! SUPPORT. What is said of every instruction as syntax, one lemma for each constructor: the size of its encoding is the
one 30_encoding.md R107 gives, under every configuration. -/

namespace Sys2Proof.Laws.EncodedSize

/-- The bits of an encoding. -/
def bits : Encoded → Nat
  | .word _ => 64
  | .payload bytes => 8 * bytes.length
  | .control _ => 8
  | .command _ => 8
  | .bitCopy _ _ _ _ => 0

/-- R107, and R130 for the primitive that has no encoding. -/
def tableBits : Instr → Nat
  | .convert _ => 64
  | .flush _ => 64
  | .clear _ => 64
  | .blit _ => 64
  | .text _ => 64
  | .setColLow _ => 8
  | .setColHigh _ => 8
  | .setPage _ => 8
  | .ctrlCmdStream => 8
  | .ctrlCmdSingle => 8
  | .ctrlDataStream => 8
  | .fa _ _ => 8 * 4
  | .fd bytes => 8 * (1 + bytes.length)
  | .fc _ => 8 * 131
  | .copyBit _ _ _ _ => 0

def Statement (i : Instr) : Prop := ∀ c : Config, bits (encode c i) = tableBits i

theorem convert (o : Operands) : Statement (.convert o) := fun _ => rfl
theorem flush (o : Operands) : Statement (.flush o) := fun _ => rfl
theorem clear (o : Operands) : Statement (.clear o) := fun _ => rfl
theorem blit (o : Operands) : Statement (.blit o) := fun _ => rfl
theorem text (o : Operands) : Statement (.text o) := fun _ => rfl
theorem setColLow (n : BitVec 4) : Statement (.setColLow n) := fun _ => rfl
theorem setColHigh (n : BitVec 4) : Statement (.setColHigh n) := fun _ => rfl
theorem setPage (p : PageIdx) : Statement (.setPage p) := fun _ => rfl
theorem ctrlCmdStream : Statement .ctrlCmdStream := fun _ => rfl
theorem ctrlCmdSingle : Statement .ctrlCmdSingle := fun _ => rfl
theorem ctrlDataStream : Statement .ctrlDataStream := fun _ => rfl
theorem fa (p : PageIdx) (s : SegIdx) : Statement (.fa p s) := fun _ => rfl
theorem fd (bytes : List Byte) : Statement (.fd bytes) := fun c => by
  simp [bits, tableBits, encode, frameFD, Nat.add_comm]
theorem fc (p : PageIdx) : Statement (.fc p) := fun c => by simp [bits, tableBits, encode, frameFC]
theorem copyBit (src : Byte) (srcBit : BitVec 3) (dst : Byte) (dstBit : BitVec 3) :
    Statement (.copyBit src srcBit dst dstBit) := fun _ => rfl

end Sys2Proof.Laws.EncodedSize
end

