-- ==== Sys2Proof/Tests/Slice0.lean ====
section
/-! SUPPORT. Small tests. Expected values are 95_test_vectors.md's (E1 to E8, V1 to V10, P1 to P4), or counted from the
rule named beside the test. The second part gives, for each statement of Certificates/Slice0/Obligations.lean that has
hypotheses, a state and operands that meet them all. -/

namespace Sys2Proof.Tests

open Sys2Proof.Machine

set_option Elab.async false

/-! ## Helpers -/

def next? (r : Host.Outcome State Fault Refusal) : Option State :=
  match r with
  | .next t => some t
  | .fault _ => none
  | .refused _ => none

/-- A view of the next state. -/
def see {α : Type} (r : Host.Outcome State Fault Refusal) (f : State → α) : Option α := (next? r).map f

/-- The next state is one and satisfies a check. -/
def ends (r : Host.Outcome State Fault Refusal) (f : State → Bool) : Bool := see r f == some true

def okAnswer : Answer := ⟨1, true, true, .ok, 0⟩

def failAnswer (taken : Nat) : Answer := ⟨1, true, true, .fail, taken⟩

/-- An idle block with an operand buffer, twenty answers `OK` to come, and a device on page 2, column 5. -/
def ready (opb : List Byte) : State :=
  { State.reset with
    dev := ⟨[], 2#3, 5#7, .control, 0⟩
    opb := opb
    answers := List.replicate 20 okAnswer }

/-- The same with an empty buffer and something offered. -/
def offered (items : List Item) : State := { ready [] with inbox := items }

def none4 : Operands := ⟨0#8, 0#8, 0#8, 0#16⟩

/-- The usual configuration with the column wrapping to 0. -/
def wrapping : Config := { Config.usual with colWrap := .to 0#7 }

/-! ## Well-formedness -/

theorem test_fd_empty_refused : (Instr.fd []).wf = false := by decide
theorem test_fd_129_refused : (Instr.fd (List.replicate 129 0#8)).wf = false := by decide +kernel
theorem test_fd_bounds_accepted : (Instr.fd [0#8]).wf = true ∧ (Instr.fd (List.replicate 128 0#8)).wf = true := by
  decide +kernel

theorem test_r7a_refused : ({ Config.usual with ctrlDataStream := 0x80#8 } : Config).wf = false := by decide
theorem test_r7b_low_refused : ({ Config.usual with colLowBase := 0x01#8 } : Config).wf = false := by decide
theorem test_r7b_high_refused : ({ Config.usual with colHighBase := 0x18#8 } : Config).wf = false := by decide
theorem test_r7c_refused : ({ Config.usual with pageSelBase := 0xB4#8 } : Config).wf = false := by decide
theorem test_r7d_columns_refused : ({ Config.usual with colHighBase := 0x00#8 } : Config).wf = false := by decide
theorem test_r7d_page_low_refused : ({ Config.usual with pageSelBase := 0x08#8 } : Config).wf = false := by decide
theorem test_r7d_page_high_refused : ({ Config.usual with pageSelBase := 0x10#8 } : Config).wf = false := by decide
theorem test_usual_accepted : Config.usual.wf = true := by decide

/-! ## Decoding: one word for each constructor (V4, V5, V10, E6) -/

theorem test_decode_convert : decode Config.usual (.word 0x000003FF00000000#64) =
    .instr (.convert ⟨0#8, 0#8, 0#8, 1023#16⟩) := by decide
theorem test_decode_flush : decode Config.usual (.word 0x000000000000FF01#64) =
    .instr (.flush ⟨0xFF#8, 0#8, 0#8, 0#16⟩) := by decide
theorem test_decode_clear : decode Config.usual (.word 0x0000000000000002#64) = .instr (.clear none4) := by decide
theorem test_decode_blit : decode Config.usual (.word 0x00000001017F0703#64) =
    .instr (.blit ⟨7#8, 127#8, 1#8, 1#16⟩) := by decide
theorem test_decode_text : decode Config.usual (.word 0x0000000300000004#64) =
    .instr (.text ⟨0#8, 0#8, 0#8, 3#16⟩) := by decide
theorem test_decode_setColLow : decode Config.usual (.command 0b00001111#8) = .instr (.setColLow 15#4) := by decide
theorem test_decode_setColHigh : decode Config.usual (.command 0b00010110#8) = .instr (.setColHigh 6#4) := by decide
theorem test_decode_setPage : decode Config.usual (.command 0b10110111#8) = .instr (.setPage 7#3) := by decide
theorem test_decode_ctrlCmdStream : decode Config.usual (.control 0b00000000#8) = .instr .ctrlCmdStream := by decide
theorem test_decode_ctrlCmdSingle : decode Config.usual (.control 0b10000000#8) = .instr .ctrlCmdSingle := by decide
theorem test_decode_ctrlDataStream : decode Config.usual (.control 0b01000000#8) = .instr .ctrlDataStream := by decide
theorem test_decode_fa : decode Config.usual (.payload [0x00#8, 0x0F#8, 0x17#8, 0xB7#8]) = .instr (.fa 7#3 127#7) := by
  decide
theorem test_decode_fd : decode Config.usual (.payload [0x40#8, 0xDE#8, 0xAD#8]) = .instr (.fd [0xDE#8, 0xAD#8]) := by
  decide
theorem test_decode_fc : decode Config.usual (.payload ([0x80#8, 0xB2#8, 0x40#8] ++ List.replicate 128 0#8)) =
    .instr (.fc 2#3) := by decide +kernel
theorem test_decode_copyBit : decode Config.usual (.bitCopy 0xA5#8 2#3 0x10#8 0#3) =
    .instr (.copyBit 0xA5#8 2#3 0x10#8 0#3) := by decide

/-- R93: the three reserved operation codes and each reserved field; R98 to R102, R105: near misses of a frame. -/
theorem test_reserved_encodings :
    decode Config.usual (.word 0x0000000000000005#64) = .rejected .reservedOp ∧
    decode Config.usual (.word 0x0000000000000006#64) = .rejected .reservedOp ∧
    decode Config.usual (.word 0x0000000000000007#64) = .rejected .reservedOp ∧
    decode Config.usual (.word 0x0000000000000009#64) = .rejected .reservedBits ∧
    decode Config.usual (.word 0x0001000000000001#64) = .rejected .reservedBits ∧
    decode Config.usual (.payload [0x00#8, 0x0F#8, 0x18#8, 0xB7#8]) = .rejected .notAFrame ∧
    decode Config.usual (.payload [0x00#8, 0x0F#8, 0x17#8]) = .rejected .notAFrame ∧
    decode Config.usual (.payload [0x40#8]) = .rejected .notAFrame ∧
    decode Config.usual (.payload []) = .rejected .notAFrame ∧
    decode Config.usual (.control 0x41#8) = .rejected .notAControlByte ∧
    decode Config.usual (.command 0xB8#8) = .rejected .notACommandByte ∧
    decode Config.usual (.command 0x20#8) = .rejected .notACommandByte := by decide +kernel

/-- The opcode table's patterns, with operand bits where a row has some, read as the table numbers them (log 10). -/
theorem test_table_rows :
    decodeTableWord 64 0 = some (.convert none4) ∧
    decodeTableWord 64 0x0000000404250303 = some (.blit ⟨3#8, 37#8, 4#8, 4#16⟩) ∧
    decodeTableWord 8 0b00000101 = some (.setColLow 5#4) ∧
    decodeTableWord 8 0b00010010 = some (.setColHigh 2#4) ∧
    decodeTableWord 8 0b10110011 = some (.setPage 3#3) ∧
    decodeTableWord 8 0b00000000 = some .ctrlCmdStream ∧
    decodeTableWord 8 0b10000000 = some .ctrlCmdSingle ∧
    decodeTableWord 8 0b01000000 = some .ctrlDataStream ∧
    decodeTableWord 32 0b00000000000001010001001010110011 = some (.fa 3#3 37#7) ∧
    decodeTableWord 16 0b0100000011011110 = some (.fd [0xDE#8]) ∧
    decodeTableWord 32 0b10000000101100100100000000000000 = some (.fc 2#3) ∧
    decodeTableWord 0 0 = some (.copyBit 0#8 0#3 0#8 0#3) ∧
    decodeTableWord 64 5 = none := by decide +kernel

/-- E6: segments 0, 15, 16, 127. -/
theorem test_segment_split :
    (colLowByte Config.usual 0x00#8, colHighByte Config.usual 0x00#8) = (0x00#8, 0x10#8) ∧
    (colLowByte Config.usual 0x0F#8, colHighByte Config.usual 0x0F#8) = (0x0F#8, 0x10#8) ∧
    (colLowByte Config.usual 0x10#8, colHighByte Config.usual 0x10#8) = (0x00#8, 0x11#8) ∧
    (colLowByte Config.usual 0x7F#8, colHighByte Config.usual 0x7F#8) = (0x0F#8, 0x17#8) := by decide

/-! ## The remap unit -/

/-- V1. -/
theorem test_copyBit_vectors :
    copyBit 0x80#8 7#3 0x00#8 3#3 = 0x08#8 ∧ copyBit 0x00#8 0#3 0xFF#8 7#3 = 0x7F#8 ∧
    copyBit 0x01#8 0#3 0xFF#8 7#3 = 0xFF#8 ∧ copyBit 0xA5#8 2#3 0x10#8 0#3 = 0x11#8 ∧
    copyBit 0xA5#8 1#3 0x11#8 0#3 = 0x10#8 ∧ copyBit 0xFF#8 4#3 0x00#8 4#3 = 0x10#8 ∧
    copyBit 0x00#8 4#3 0xFF#8 4#3 = 0xEF#8 ∧ copyBit 0x5A#8 0#3 0x5A#8 0#3 = 0x5A#8 ∧
    copyBit 0x5A#8 1#3 0x5A#8 0#3 = 0x5B#8 := by decide

/-- V2. -/
theorem test_map_vectors :
    mapIndex 0 0 0 = ⟨0, 0, 0⟩ ∧ mapIndex 0 0 7 = ⟨0, 7, 0⟩ ∧ mapIndex 0 15 7 = ⟨0, 127, 0⟩ ∧
    mapIndex 7 0 0 = ⟨0, 0, 7⟩ ∧ mapIndex 8 0 0 = ⟨1, 0, 0⟩ ∧ mapIndex 10 1 1 = ⟨1, 9, 2⟩ ∧
    mapIndex 63 15 7 = ⟨7, 127, 7⟩ ∧ srcBitOf 0 = 7 ∧ srcBitOf 7 = 0 ∧ srcBitOf 1 = 6 := by decide

/-- One COPY_BIT micro-step of CONVERT: bit 5 of a source byte into bit 2 of cell (1, 10), whose other bits stay. -/
theorem test_convert_one_bit :
    ((cvBit { ready [] with
        db := [(138, 0x81#8)]
        rmp := ⟨10#6, 1#4, 5#3, 10#7, 1#3, 2#3, 160#10, 0x20#8⟩ }).db,
     (cvBit { ready [] with rmp := ⟨10#6, 1#4, 5#3, 10#7, 1#3, 2#3, 160#10, 0x20#8⟩ }).rmp) =
      ([(138, 0x85#8)], ⟨10#6, 1#4, 4#3, 11#7, 1#3, 2#3, 160#10, 0x20#8⟩) := by decide +kernel

/-- The cells a CONVERT leaves, from its operand buffer. -/
theorem convert_cells (s : State) (hi : s.phase = .idle) :
    ∃ t, exec (.convert ⟨0#8, 0#8, 0#8, 1024#16⟩) s = .next t ∧ t.res.code = .ok ∧
      ∀ (p : PageIdx) (x : SegIdx) (v : Byte),
        (∀ b, b < 8 → (s.opbByte (16 * (8 * p.toNat + b) + x.toNat / 8)).getLsbD (7 - x.toNat % 8) = v.getLsbD b) →
        t.cell p x = v := by
  obtain ⟨t, h1, h2, h3, -⟩ := operation_ended (op := 0#3) (o := ⟨0#8, 0#8, 0#8, 1024#16⟩) (p := .cvInit)
    (check := convertCheck) (run := runConvert) hi (by simp [convertCheck, accept]) (runConvert_sends _)
    (runConvert_rest _).2.2
  refine ⟨t, h1, by rw [h2.result]; rfl, fun p x v h => BitVec.eq_of_getLsbD_eq fun b hb => ?_⟩
  rw [← h b hb, State.cell, h3]
  exact runConvert_cell _ p x hb

/-- E4's source bytes. -/
def e4 : List Byte := (List.range 1024).map fun i =>
  if i = 0 then 0xA8#8 else if i = 16 then 0xB9#8 else if i = 32 then 0xCF#8 else if i = 48 then 0x0A#8
  else if i = 64 then 0x26#8 else if i = 80 then 0x04#8 else if i = 96 then 0xF1#8 else if i = 112 then 0x14#8
  else 0x00#8

/-- E4: the 8 x 8 bit matrix transposed. -/
theorem test_convert_transposes : ∃ t, exec (.convert ⟨0#8, 0#8, 0#8, 1024#16⟩) (ready e4) = .next t ∧
    t.res.code = .ok ∧
    t.cell 0#3 0#7 = 0x47#8 ∧ t.cell 0#3 1#7 = 0x44#8 ∧ t.cell 0#3 2#7 = 0x53#8 ∧ t.cell 0#3 3#7 = 0xC2#8 ∧
    t.cell 0#3 4#7 = 0x0F#8 ∧ t.cell 0#3 5#7 = 0xB4#8 ∧ t.cell 0#3 6#7 = 0x1C#8 ∧ t.cell 0#3 7#7 = 0x46#8 := by
  obtain ⟨t, h1, h2, h3⟩ := convert_cells (ready e4) rfl
  refine ⟨t, h1, h2, h3 _ _ _ ?_, h3 _ _ _ ?_, h3 _ _ _ ?_, h3 _ _ _ ?_, h3 _ _ _ ?_, h3 _ _ _ ?_, h3 _ _ _ ?_,
    h3 _ _ _ ?_⟩ <;> decide +kernel

/-- P1's bitmap. -/
def b1 : List Byte := (List.range 1024).map fun i =>
  if i = 0 then 0x80#8 else if i = 128 then 0xA5#8 else if i = 161 then 0x40#8 else if i = 255 then 0xFF#8
  else if i = 1023 then 0x01#8 else 0x00#8

/-- P1: cells of its buffer. -/
theorem test_convert_p1 : ∃ t, exec (.convert ⟨0#8, 0#8, 0#8, 1024#16⟩) (ready b1) = .next t ∧
    t.res.code = .ok ∧
    t.cell 0#3 0#7 = 0x01#8 ∧ t.cell 1#3 0#7 = 0x01#8 ∧ t.cell 1#3 1#7 = 0x00#8 ∧ t.cell 1#3 2#7 = 0x01#8 ∧
    t.cell 1#3 9#7 = 0x04#8 ∧ t.cell 1#3 119#7 = 0x00#8 ∧ t.cell 1#3 120#7 = 0x80#8 ∧ t.cell 7#3 127#7 = 0x80#8 := by
  obtain ⟨t, h1, h2, h3⟩ := convert_cells (ready b1) rfl
  refine ⟨t, h1, h2, h3 _ _ _ ?_, h3 _ _ _ ?_, h3 _ _ _ ?_, h3 _ _ _ ?_, h3 _ _ _ ?_, h3 _ _ _ ?_, h3 _ _ _ ?_,
    h3 _ _ _ ?_⟩ <;> decide +kernel

/-- V3: the length checked. -/
theorem test_convert_lengths :
    see (exec (.convert ⟨0#8, 0#8, 0#8, 1023#16⟩) (ready b1)) (fun t => (t.res.code, t.res.cause, t.rsp)) =
      some (.errPrecond, .eLen, [.done .errPrecond .eLen]) ∧
    see (exec (.convert ⟨0#8, 0#8, 0#8, 1025#16⟩) (ready b1)) (·.res.cause) = some .eLen ∧
    see (exec (.convert none4) (ready b1)) (·.res.cause) = some .eLen := by decide +kernel

/-- R32: the last micro-step gives the source byte up, whatever it was, and keeps the counters. -/
theorem test_convert_keeps_no_source_byte (b : Byte) :
    (cvEnd { ready [] with serial := 3, rmp := ⟨0#6, 0#4, 7#3, 0#7, 0#3, 0#3, 0#10, b⟩ }).rmp =
      ⟨0#6, 0#4, 7#3, 0#7, 0#3, 0#3, 0#10, Config.freeSourceByte 3⟩ := rfl

/-! ## The device and the sequencer -/

/-- R61: one nibble of the column at a time, from column 5 = 0x05. -/
theorem test_device_commands :
    see (exec (.setColLow 0xF#4) (ready [])) (fun t => (t.dev.col, t.dev.page)) = some (0x0F#7, 2#3) ∧
    see (exec (.setColHigh 0xE#4) (ready [])) (fun t => (t.dev.col, t.dev.page)) = some (0x65#7, 2#3) ∧
    see (exec (.setPage 6#3) (ready [])) (fun t => (t.dev.col, t.dev.page)) = some (5#7, 6#3) := by decide +kernel

/-- R97: a single-command group ends with its command. -/
theorem test_control_bytes :
    see (exec .ctrlCmdStream (ready [])) (·.dev.rx) = some .commands ∧
    see (exec .ctrlCmdSingle (ready [])) (·.dev.rx) = some .oneCommand ∧
    see (exec .ctrlDataStream (ready [])) (·.dev.rx) = some .data ∧
    see (exec (.setPage 1#3) { ready [] with dev := ⟨[], 0#3, 0#7, .oneCommand, 0⟩ }) (·.dev.rx) = some .control ∧
    see (exec (.setPage 1#3) { ready [] with dev := ⟨[], 0#3, 0#7, .commands, 0⟩ }) (·.dev.rx) = some .commands := by
  decide +kernel

/-- V5, R96: the addressing sequence, its calls and its event. -/
theorem test_fa :
    see (exec (.fa 3#3 37#7) (ready [])) (fun t => (t.tr, t.sl, t.rsp, t.dev.page, t.dev.col)) =
      some ([[0x00#8, 0x05#8, 0x12#8, 0xB3#8]], [.ok], [.ts 0 .ok], 3#3, 37#7) ∧
    see (exec (.fa 3#3 37#7) (ready [])) (·.calls) =
      some [.begin 1, .address 1 0x3C#7 .write, .bytes 1 [0x00#8, 0x05#8, 0x12#8, 0xB3#8], .finish 1 .ok] := by
  decide +kernel

/-- R62: data at the last columns of a page; COL_WRAP then says where the counter stands. -/
theorem test_fd :
    see (exec (.fd [0xDE#8, 0xAD#8]) { ready [] with cfg := wrapping, dev := ⟨[], 2#3, 126#7, .control, 0⟩ })
      (fun t => (t.dev.gd, t.dev.page, t.dev.col)) = some ([(382, 0xDE#8), (383, 0xAD#8)], 2#3, 0#7) := by
  decide +kernel

/-- R63: a failed transaction delivers a first part of its payload. -/
theorem test_fd_failed :
    see (exec (.fd [0xDE#8, 0xAD#8]) { ready [] with answers := [failAnswer 2] })
      (fun t => (t.dev.gd, t.dev.col, t.sl, t.res.anyfail)) = some ([(261, 0xDE#8)], 6#7, [.fail], true) := by
  decide +kernel

/-- V5, R156: the clear frame from column 5, the column wrapping. -/
theorem test_fc :
    ends (exec (.fc 6#3) { ready [] with cfg := wrapping, dev := ⟨[(5, 0x11#8), (768, 0x22#8)], 2#3, 5#7, .control, 0⟩ })
      (fun t => t.tr == [[0x80#8, 0xB6#8, 0x40#8] ++ List.replicate 128 0x00#8] && t.dev.page == 6#3 && t.dev.col == 5#7 &&
        t.dev.cell? 6#3 0#7 == some 0x00#8 && t.dev.cell? 6#3 127#7 == some 0x00#8 &&
        t.dev.cell? 0#3 5#7 == some 0x11#8) = true := by decide +kernel

/-- R97, R31: device bytes offered one at a time: a single command, then data. -/
theorem test_rx_bytes :
    see (step (offered [.rx 0x80#8])) (·.dev.rx) = some .oneCommand ∧
    see (step { offered [.rx 0xB4#8] with dev := ⟨[], 0#3, 9#7, .oneCommand, 0⟩ })
      (fun t => (t.dev.page, t.dev.rx, t.inbox)) = some (4#3, .control, []) ∧
    see (step { offered [.rx 0xB4#8] with dev := ⟨[], 0#3, 9#7, .data, 0⟩ })
      (fun t => (t.dev.gd, t.dev.col, t.dev.rx)) = some ([(9, 0xB4#8)], 10#7, .data) := by decide +kernel

/-! ## FLUSH, BLIT, TEXT, CLEAR -/

/-- V6: transaction 3 of a flush whose buffer holds only `DB[1][9] = 0x04`, and its first page's frames. -/
theorem test_flush_row :
    ends (exec (.flush none4) { ready [] with db := [(137, 0x04#8)] })
      (fun t => t.tr.length == 16 && t.tr[2]? == some [0x00#8, 0x00#8, 0x10#8, 0xB1#8] &&
        t.tr[3]? == some ([0x40#8] ++ List.replicate 9 0x00#8 ++ [0x04#8] ++ List.replicate 118 0x00#8) &&
        t.tr[14]? == some [0x00#8, 0x00#8, 0x10#8, 0xB7#8] && t.db == [(137, 0x04#8)] &&
        t.res == ⟨.ok, .none, false⟩) = true := by decide +kernel

/-- P4: transaction 3 fails; the flush goes on and ends with XFAIL. -/
theorem test_flush_one_failure :
    see (exec (.flush none4)
        { ready [] with answers := List.replicate 3 okAnswer ++ [failAnswer 0] ++ List.replicate 12 okAnswer })
      (fun t => (t.tr.length, t.sl, t.rsp[3]?, t.rsp[16]?)) =
      some (16, List.replicate 3 .ok ++ [.fail] ++ List.replicate 12 .ok, some (.ts 3 .fail), some (.done .xfail .none)) := by
  decide +kernel

/-- V7: a blit's trace, and the bytes at the device. -/
theorem test_blit_sends :
    ends (exec (.blit ⟨3#8, 37#8, 4#8, 4#16⟩) (ready [0xDE#8, 0xAD#8, 0xBE#8, 0xEF#8]))
      (fun t => t.tr == [[0x00#8, 0x05#8, 0x12#8, 0xB3#8], [0x40#8, 0xDE#8, 0xAD#8, 0xBE#8, 0xEF#8]] &&
        t.dev.gd == [(421, 0xDE#8), (422, 0xAD#8), (423, 0xBE#8), (424, 0xEF#8)] && t.db == []) = true ∧
    see (exec (.blit ⟨0#8, 120#8, 8#8, 8#16⟩) (ready (List.replicate 8 0x55#8))) (fun t => (t.tr[0]?, t.res.code)) =
      some (some [0x00#8, 0x08#8, 0x17#8, 0xB0#8], .ok) ∧
    see (exec (.blit ⟨0#8, 0#8, 2#8, 3#16⟩) (ready [1#8, 2#8, 3#8])) (·.tr[1]?) =
      some (some [0x40#8, 0x01#8, 0x02#8]) := by decide +kernel

/-- V7: the rejected blits, the first failed check named. -/
theorem test_blit_rejected :
    see (exec (.blit ⟨8#8, 0#8, 1#8, 1#16⟩) (ready [0#8])) (fun t => (t.res.cause, t.tr)) = some (.ePage, []) ∧
    see (exec (.blit ⟨0#8, 128#8, 1#8, 1#16⟩) (ready [0#8])) (·.res.cause) = some .eSeg ∧
    see (exec (.blit ⟨8#8, 128#8, 1#8, 1#16⟩) (ready [0#8])) (·.res.cause) = some .ePage ∧
    see (exec (.blit ⟨0#8, 120#8, 9#8, 9#16⟩) (ready [0#8])) (·.res.cause) = some .eWidth ∧
    see (exec (.blit none4) (ready [])) (·.res.cause) = some .eWidth ∧
    see (exec (.blit ⟨0#8, 0#8, 2#8, 1#16⟩) (ready [1#8])) (·.res.cause) = some .eWidth := by decide +kernel

/-- V8, E7, P2: "A\nB". The glyphs are free. -/
theorem test_text_trace :
    see (exec (.text ⟨0#8, 0#8, 0#8, 3#16⟩) (ready [0x41#8, 0x0A#8, 0x42#8])) (fun t => (t.seq.curPage, t.res.code)) =
      some (1#3, .ok) ∧
    see (exec (.text ⟨0#8, 0#8, 0#8, 3#16⟩) (ready [0x41#8, 0x0A#8, 0x42#8])) (·.tr) =
      some [[0x00#8, 0x00#8, 0x10#8, 0xB0#8], 0x40#8 :: (List.range 8).map (fun i => Config.glyph 0x41#8 (BitVec.ofNat 3 i)),
        [0x00#8, 0x00#8, 0x10#8, 0xB1#8], 0x40#8 :: (List.range 8).map (fun i => Config.glyph 0x42#8 (BitVec.ofNat 3 i))] :=
  ⟨by decide +kernel, by rfl⟩

/-- V8: no text, 7 newlines, 8 newlines after a character. -/
theorem test_text_newlines :
    see (exec (.text none4) (ready [])) (·.tr) = some [[0x00#8, 0x00#8, 0x10#8, 0xB0#8]] ∧
    see (exec (.text ⟨0#8, 0#8, 0#8, 7#16⟩) (ready (List.replicate 7 0x0A#8)))
      (fun t => (t.tr.length, t.tr[7]?, t.seq.curPage, t.res.code)) =
      some (8, some [0x00#8, 0x00#8, 0x10#8, 0xB7#8], 7#3, .ok) ∧
    see (exec (.text ⟨0#8, 0#8, 0#8, 9#16⟩) (ready (0x78#8 :: List.replicate 8 0x0A#8))) (fun t => (t.tr, t.res.cause)) =
      some ([], .ePageOvf) := by decide +kernel

/-- V9: statuses OK, OK, FAIL, then OK: all eight transactions, the buffer zero, XFAIL, TS(2, FAIL). -/
theorem test_clear :
    ends (exec (.clear none4) { ready [] with
        cfg := wrapping, db := [(0, 0xFF#8), (137, 0x04#8), (1023, 0x80#8)]
        answers := List.replicate 2 okAnswer ++ [failAnswer 0] ++ List.replicate 5 okAnswer })
      (fun t => t.db == [] && t.res == ⟨.xfail, .none, true⟩ && t.rsp[2]? == some (.ts 2 .fail) && t.rsp.length == 9 &&
        t.tr == (List.range 8).map fun p => [0x80#8, 0xB0#8 + BitVec.ofNat 8 p, 0x40#8] ++ List.replicate 128 0x00#8) =
      true := by decide +kernel

/-! ## The machine -/

/-- V10: a reserved bit is rejected with E_OP; an unused field is not looked at. -/
theorem test_word_rejected :
    see (step (offered [.cmd 0x0000000000000009#64 []])) (fun t => (t.res.code, t.res.cause, t.rsp, t.tr)) =
      some (.errPrecond, .eOp, [.done .errPrecond .eOp], []) ∧
    see (step (offered [.cmd 0x000000000000FF01#64 []])) (fun t => (t.res.code, t.latch.page, t.tr.length)) =
      some (.ok, 0xFF#8, 16) := by decide +kernel

/-- R28: a precondition that fails sends CHECK to DONE with its cause; DONE delivers it. -/
theorem test_tick_rejects :
    see (ticks 2 (offered [.cmd 0x000003FF00000000#64 []])) (fun t => (t.phase, t.res.code, t.res.cause)) =
      some (.done, .errPrecond, .eLen) ∧
    see (ticks 3 (offered [.cmd 0x000003FF00000000#64 []])) (fun t => (t.phase, t.rsp)) =
      some (.idle, [.done .errPrecond .eLen]) := by decide +kernel

/-- R252, U17: a text of two characters on one byte is refused in both forms; on two bytes it runs (three transactions). -/
theorem test_short_operand :
    step (offered [.cmd 0x0000000200000004#64 [0x41#8]]) = .refused .shortOperandBuffer ∧
    tick (offered [.cmd 0x0000000200000004#64 [0x41#8]]) = .refused .shortOperandBuffer ∧
    see (step (offered [.cmd 0x0000000200000004#64 [0x0A#8, 0x0A#8]])) (·.tr.length) = some 3 :=
  ⟨rfl, rfl, by decide +kernel⟩

/-- R31, R28: the fine-grained machine only takes the word; the flush begins two micro-steps later. -/
theorem test_tick_takes_the_word :
    see (tick (offered [.cmd 0x0000000000000001#64 []])) (fun t => (t.phase, t.pos, t.latch.op)) =
      some (.check, .checking true, 1#3) ∧
    see (ticks 2 (offered [.cmd 0x0000000000000001#64 []])) (fun t => (t.phase, t.pos)) = some (.run, .flInit) := by
  decide +kernel

/-- R241: reset in the middle of a transaction whose bytes have been written. -/
theorem test_reset_in_transaction :
    ends (step { ready [] with
        rst := true, phase := .run, pos := .flNext, tx := some ⟨1, [0x40#8, 0xAA#8, 0xBB#8], .finish⟩
        answers := [failAnswer 2, okAnswer], db := [(3, 1#8)] })
      (fun t => t.db == [] && t.phase == .idle && t.tx == none && t.dev.gd == [(261, 0xAA#8)] && t.answers == [okAnswer] &&
        t.rsp == [] && t.rst == false) = true := by decide +kernel

theorem test_reset_memory : State.reset.db = [] ∧ State.reset.dev.gd = [] := by decide

theorem test_write_zero_unlists :
    Memory.write 5 0x00#8 [(3, 1#8), (5, 2#8)] = [(3, 1#8)] ∧
    Memory.write 4 9#8 [(3, 1#8), (5, 2#8)] = [(3, 1#8), (4, 9#8), (5, 2#8)] := by decide

/-! ## Hypotheses that can be met

One theorem for each statement that has hypotheses, with boundary values of its clauses. -/

theorem witness_DecodeInvertsEncode : Config.usual.wf = true ∧ (Instr.fd (List.replicate 128 0xFF#8)).wf = true ∧
    (Instr.fd [0#8]).wf = true := by decide +kernel

theorem witness_EncodeInvertsDecode : Config.usual.wf = true ∧
    decode Config.usual (.payload [0x00#8, 0x0F#8, 0x17#8, 0xB7#8]) = .instr (.fa 7#3 127#7) ∧
    decode Config.usual (.word 0x0000FFFFFFFFFF04#64) = .instr (.text ⟨0xFF#8, 0xFF#8, 0xFF#8, 0xFFFF#16⟩) ∧
    decode Config.usual (.command 0xB7#8) = .instr (.setPage 7#3) := by decide +kernel

theorem witness_ConfigurationConstraints : Config.usual.wf = true ∧
    ({ ready [] with cfg := { Config.usual with pageSelBase := 0xB4#8 } } : State).cfg.wf = false := by decide

theorem witness_SegmentNibbles : Config.usual.wf = true := by decide

/-- Bits that agree, and a bit beside the copied one. -/
theorem witness_CopyBitCopiesOneBit : (0xFF#8).getLsbD (7#3).toNat = (0x01#8).getLsbD (0#3).toNat ∧ 6 < 8 ∧
    6 ≠ (7#3).toNat := by decide

theorem witness_CopyBitLaws : (0#3 : BitVec 3) ≠ 7#3 ∧ (0x80#8).getLsbD (7#3).toNat = (0x01#8).getLsbD (0#3).toNat ∧
    ∀ i : BitVec 3, i ∈ [7#3, 0#3, 1#3, 2#3, 3#3, 4#3, 5#3, 6#3] := by decide

theorem witness_MapIsABijection : 63 < 64 ∧ 15 < 16 ∧ 7 < 8 ∧ 127 < 128 ∧ mapIndex 63 15 7 = ⟨7, 127, 7⟩ := by decide

/-- ConvertTransposes, ConvertCountersWrap: CONVERT runs from an idle state on 1024 bytes. -/
theorem witness_ConvertTransposes : (ready b1).phase = .idle ∧
    (⟨0#8, 0#8, 0#8, 1024#16⟩ : Operands).len = 1024#16 ∧ 127 < 128 ∧ 63 < 64 ∧ 7 < 8 := by decide

theorem witness_ConvertRejectsOtherLengths : (ready []).phase = .idle ∧ (0#16 : BitVec 16) ≠ 1024#16 ∧
    (1023#16 : BitVec 16) ≠ 1024#16 ∧ (1025#16 : BitVec 16) ≠ 1024#16 := by decide

/-- CONVERT about to copy the last bit of the last byte. -/
def lastBit : State :=
  { ready [] with
    phase := .run
    pos := .cvCopy
    rmp := ⟨63#6, 15#4, 0#3, 127#7, 7#3, 7#3, 1008#10, Config.freeOperand 0 1023⟩ }

theorem witness_ConvertRegistersFollowTheMap : lastBit.remapPlaced ∧ (∃ t, tick lastBit = .next t) ∧
    ∃ t, step lastBit = .next t :=
  ⟨fun _ => ⟨rfl, rfl, rfl⟩, ⟨_, rfl⟩, ⟨_, rfl⟩⟩

theorem zeros_get (n : Nat) {i : Nat} (h : i < n) (x : Byte) : (List.replicate n 0x00#8)[i]?.getD x = 0x00#8 := by
  simp [h]

theorem first_get (n : Nat) {i : Nat} (h : i < n + 1) (x : Byte) :
    (0x80#8 :: List.replicate n 0x00#8)[i]?.getD x = if i = 0 then 0x80#8 else 0x00#8 := by
  rcases i with _ | i
  · rfl
  · rw [List.getElem?_cons_succ, zeros_get n (by omega), if_neg (by omega)]

theorem last_get (n : Nat) {i : Nat} (h : i < n + 1) (x : Byte) :
    (List.replicate n 0x00#8 ++ [0x01#8])[i]?.getD x = if i = n then 0x01#8 else 0x00#8 := by
  rcases Nat.lt_or_eq_of_le (Nat.le_of_lt_succ h) with h | rfl
  · simp [List.getElem?_append, h, Nat.ne_of_lt h]
  · simp

/-- The bitmaps with only the first, and only the last, pixel set. -/
theorem witness_ConvertSinglePixel :
    (∀ buf, (ready buf).phase = .idle) ∧ 0 < 64 ∧ 0 < 128 ∧ 63 < 64 ∧ 127 < 128 ∧
    (∀ i j, i < 1024 → j < 8 →
      ((ready (0x80#8 :: List.replicate 1023 0x00#8)).opbByte i).getLsbD j =
        decide (i = 16 * 0 + 0 / 8 ∧ j = 7 - 0 % 8)) ∧
    (∀ i j, i < 1024 → j < 8 →
      ((ready (List.replicate 1023 0x00#8 ++ [0x01#8])).opbByte i).getLsbD j =
        decide (i = 16 * 63 + 127 / 8 ∧ j = 7 - 127 % 8)) := by
  have b0 : ∀ j, j < 8 → (0x80#8).getLsbD j = decide (j = 7) := by decide
  have b1 : ∀ j, j < 8 → (0x01#8).getLsbD j = decide (j = 0) := by decide
  refine ⟨fun _ => rfl, by decide, by decide, by decide, by decide, fun i j hi hj => ?_, fun i j hi hj => ?_⟩
  · rw [State.opbByte, show (ready _).opb = 0x80#8 :: List.replicate 1023 0x00#8 from rfl, first_get 1023 hi]
    by_cases h : i = 0 <;> simp [h, b0 j hj]
  · rw [State.opbByte, show (ready _).opb = List.replicate 1023 0x00#8 ++ [0x01#8] from rfl, last_get 1023 hi]
    by_cases h : i = 1023 <;> simp [h, b1 j hj]

theorem ready_opbByte (buf : List Byte) (i : Nat) : (ready buf).opbByte i = buf[i]?.getD (Config.freeOperand 0 i) := rfl

theorem opbByte_db (buf : List Byte) (m : Memory) (i : Nat) :
    (ready buf).opbByte i = ({ ready buf with db := m } : State).opbByte i := rfl

/-- Two buffers, one bitmap: both runs end. -/
theorem witness_ConvertForgetsOldBuffer :
    (ready b1).db.wf ∧ ({ ready b1 with db := [(7, 0xFF#8)] } : State).db.wf ∧
    (∀ i, i < 1024 → (ready b1).opbByte i = ({ ready b1 with db := [(7, 0xFF#8)] } : State).opbByte i) ∧
    (∀ i, i < 1024 → (ready (List.replicate 1024 0x00#8)).opbByte i = 0) ∧
    (∃ t, exec (.convert ⟨0#8, 0#8, 0#8, 1024#16⟩) (ready b1) = .next t) ∧
    (∃ t, exec (.convert ⟨0#8, 0#8, 0#8, 1024#16⟩) { ready b1 with db := [(7, 0xFF#8)] } = .next t) ∧
    ∃ t, exec (.convert ⟨0#8, 0#8, 0#8, 1024#16⟩) (ready (List.replicate 1024 0x00#8)) = .next t :=
  ⟨by decide, by decide, fun i _ => opbByte_db b1 _ i, fun _ hi => (ready_opbByte _ _).trans (zeros_get 1024 hi _), ⟨_, rfl⟩, ⟨_, rfl⟩, ⟨_, rfl⟩⟩

/-- The three frames at their bounds, a transaction that answers OK and one that fails. -/
theorem witness_FrameIsOneTransaction :
    (encode (ready []).cfg (.fa 7#3 127#7) = .payload [0x00#8, 0x0F#8, 0x17#8, 0xB7#8]) ∧
    (Instr.fd [0#8]).wf = true ∧ encode (ready []).cfg (.fd [0#8]) = .payload [0x40#8, 0#8] ∧
    (Instr.fd (List.replicate 128 0#8)).wf = true ∧
    encode (ready []).cfg (.fc 7#3) = .payload ([0x80#8, 0xB7#8, 0x40#8] ++ List.replicate 128 0#8) ∧
    (ready []).tx = none ∧ ((ready []).answer 0).status = .ok ∧
    (({ ready [] with answers := [failAnswer 3] } : State).answer 0).status = .fail := by decide +kernel

theorem witness_AddressingPlacesTheDevice : (ready []).cfg.wf = true ∧ (ready []).tx = none ∧
    ((ready []).answer 0).status = .ok := by decide

/-- A burst that ends before, and one that ends with, the last column; and the whole row. -/
theorem witness_DataBurstLandsAtTheDevice :
    (ready []).cfg.wf = true ∧ (ready []).tx = none ∧ ((ready []).answer 0).status = .ok ∧
    (ready []).dev.col.toNat + [0#8].length < 128 ∧
    (Instr.fd (List.replicate 123 0#8)).wf = true ∧ (ready []).dev.col.toNat + (List.replicate 123 0#8).length = 128 ∧
    wrapping.wf = true ∧ wrapping.colWrap = .to 0#7 ∧
    ({ (ready []).dev with col := 0#7 } : Device).col.toNat + (List.replicate 128 0#8).length = 128 ∧
    ({ (ready []).dev with col := 127#7 } : Device).col.toNat + [0#8].length = 128 := by decide +kernel

/-- The column at 0, and the column elsewhere with the wrap to 0; another page. -/
theorem witness_ClearFrameZeroesAPage :
    (ready []).cfg.wf = true ∧ (ready []).tx = none ∧ ((ready []).answer 0).status = .ok ∧
    ({ ready [] with dev := ⟨[], 2#3, 0#7, .control, 0⟩ } : State).dev.col = 0 ∧
    ({ ready [] with cfg := wrapping } : State).cfg.wf = true ∧
    ({ ready [] with cfg := wrapping } : State).cfg.colWrap = .to 0 ∧
    (0#3 : PageIdx) ≠ 7#3 := by decide

theorem witness_BurstLengthRefused : ([] : List Byte).length = 0 ∧ 128 < (List.replicate 129 0#8).length := by
  decide +kernel

/-- FlushSendsEveryPage, ClearZeroesTheBuffer. -/
theorem witness_FlushSendsEveryPage : (ready []).phase = .idle := by decide

theorem witness_FlushTrafficIsAFunctionOfTheBuffer :
    (ready []).phase = .idle ∧ (ready []).cfg = (ready [1#8]).cfg ∧ (ready []).db = (ready [1#8]).db ∧
    (∃ t, exec (.flush none4) (ready []) = .next t) ∧ (∃ t, exec (.flush none4) (ready [1#8]) = .next t) ∧
    ∃ t u, exec (.flush none4) (ready []) = .next t ∧ exec (.flush none4) t = .next u :=
  ⟨rfl, rfl, rfl, ⟨_, rfl⟩, ⟨_, rfl⟩, ⟨_, _, rfl, rfl⟩⟩

theorem witness_FlushMakesTheDeviceEqualTheBuffer :
    (ready []).phase = .idle ∧ (ready []).cfg.wf = true ∧ (∀ k, k < 16 → ((ready []).answer k).status = .ok) ∧
    wrapping.wf = true ∧ wrapping.colWrap = .to 0#7 := by decide

/-- BlitSendsItsBytes, BlitWritesTheDevice: one byte at the last cell, and a whole row. -/
theorem witness_BlitWritesTheDevice :
    (ready []).phase = .idle ∧ (ready []).cfg.wf = true ∧
    ((7#8).toNat ≤ 7 ∧ (127#8).toNat ≤ 127 ∧ 1 ≤ (1#8).toNat ∧ (127#8).toNat + (1#8).toNat ≤ 128 ∧
      (1#8).toNat ≤ (1#16).toNat) ∧
    ((0#8).toNat + (128#8).toNat ≤ 128 ∧ (128#8).toNat ≤ (128#16).toNat) ∧
    ((ready []).answer 0).status = .ok ∧ ((ready []).answer 1).status = .ok := by decide

/-- Each check at the first operand that fails it: page 8; segment 128; width 0; one past the row; more than the buffer. -/
theorem witness_BlitRejectsInOrder :
    (ready []).phase = .idle ∧ 7 < (8#8).toNat ∧
    ((7#8).toNat ≤ 7 ∧ 127 < (128#8).toNat) ∧
    ((127#8).toNat ≤ 127 ∧ (0#8).toNat = 0 ∧ 128 < (127#8).toNat + (2#8).toNat ∧ (0#16).toNat < (1#8).toNat) := by decide

/-- No text, and 7 newlines. -/
theorem witness_TextStreamsItsCharacters :
    (ready []).phase = .idle ∧ (ready []).newlines 0 ≤ 7 ∧ (ready (List.replicate 7 0x0A#8)).newlines 7 ≤ 7 := by decide

theorem witness_TextRejectsPageOverflow :
    (ready []).phase = .idle ∧ 7 < (ready (List.replicate 8 0x0A#8)).newlines 8 := by decide

theorem witness_ClearZeroesTheDevice :
    (ready []).phase = .idle ∧ ({ ready [] with cfg := wrapping } : State).cfg.wf = true ∧
    ({ ready [] with cfg := wrapping } : State).cfg.colWrap = .to 0 ∧
    ∀ k, k < 8 → (({ ready [] with cfg := wrapping } : State).answer k).status = .ok := by decide

/-- Each kind of word that is no operation, and the last one that is. -/
theorem witness_ReservedWordsAreRejected :
    (offered [.cmd 5#64 []]).rst = false ∧ (offered [.cmd 5#64 []]).cfg.wf = true ∧
    (offered [.cmd 5#64 []]).phase = .idle ∧ (offered [.cmd 5#64 []]).inbox = .cmd 5#64 [] :: [] ∧
    5 ≤ (CommandWord.op 5#64).toNat ∧ CommandWord.rsv0 0x80#64 ≠ 0 ∧ CommandWord.rsv1 0x8000000000000000#64 ≠ 0 ∧
    ((CommandWord.op 4#64).toNat < 5 ∧ CommandWord.rsv0 4#64 = 0 ∧ CommandWord.rsv1 4#64 = 0) := by decide

/-- A word, a frame, a byte at each of the receiver's positions, a copy request. -/
theorem witness_StepRunsTheDecodedInstruction :
    (ready []).rst = false ∧ (ready []).cfg.wf = true ∧ (ready []).phase = .idle ∧
    decode (ready []).cfg (.word 1#64) = .instr (.flush none4) ∧ (offered [.cmd 1#64 []]).shortOperand = false ∧
    decode (ready []).cfg (.payload [0x40#8, 0#8]) = .instr (.fd [0#8]) ∧
    ((ready []).dev.rx = .control ∧ decode (ready []).cfg (.control 0x40#8) = .instr .ctrlDataStream) ∧
    (({ (ready []).dev with rx := .oneCommand } : Device).rx = .oneCommand ∧
      ({ (ready []).dev with rx := .commands } : Device).rx = .commands ∧
      decode (ready []).cfg (.command 0x00#8) = .instr (.setColLow 0#4)) ∧
    (offered [.cmd 1#64 []]).inbox = .cmd 1#64 [] :: [] ∧ (offered [.rx 0#8]).inbox = .rx 0#8 :: [] := by decide

theorem witness_WithFetchWordRunsTheRow :
    (ready []).cfg = Config.usual ∧ (ready []).phase = .idle ∧ (ready []).pos = .rest ∧ (ready []).tx = none ∧
    (ready []).rst = false ∧ decodeTableWord 64 1 = some (.flush none4) ∧ decodeTableWord 8 0xB7 = some (.setPage 7#3) ∧
    decodeTableWord 8 0 = some .ctrlCmdStream ∧ decodeTableWord 8 0x0F = some (.setColLow 15#4) ∧
    decodeTableWord 16 0x4000 = some (.fd [0#8]) ∧ decodeTableWord 0 0 = some (.copyBit 0#8 0#3 0#8 0#3) := by
  decide +kernel

/-- A flush about to make its first micro-step. -/
def running : State := { offered [.cmd 2#64 []] with phase := .run, pos := .flInit, latch := ⟨1#3, 0#8, 0#8, 0#8, 0#16⟩ }

theorem witness_BusyBlockTakesNoCommand : running.rst = false ∧ running.phase ≠ .idle ∧
    running.inbox = [.cmd 2#64 []] ∧ ∃ t, step running = .next t :=
  ⟨rfl, by decide, rfl, ⟨_, rfl⟩⟩

/-- A micro-step from each of the four phases, on each side of what decides where it goes: a command offered or not, a
precondition that holds or fails, a micro-step that is not the last, is the last, or has a transaction open. -/
theorem witness_PhasesAdvanceInOrder :
    (∃ t, tick (offered [.cmd 1#64 []]) = .next t) ∧ (∃ t, tick (offered [.rx 0x80#8]) = .next t) ∧
    (precondition true { running with phase := .check, pos := .checking true } = .none ∧
      ∃ t, tick { running with phase := .check, pos := .checking true } = .next t) ∧
    (precondition false { running with phase := .check, pos := .checking false } ≠ .none ∧
      ∃ t, tick { running with phase := .check, pos := .checking false } = .next t) ∧
    (∃ t, tick running = .next t) ∧
    (({ running with pos := .flEnd } : State).tx = none ∧ ∃ t, tick { running with pos := .flEnd } = .next t) ∧
    (∃ t, tick { running with pos := .flEnd, tx := some ⟨1, [0x40#8, 0#8], .address⟩ } = .next t) ∧
    ∃ t, tick { running with phase := .done, pos := .finishing } = .next t :=
  ⟨⟨_, rfl⟩, ⟨_, rfl⟩, ⟨rfl, _, rfl⟩, ⟨by decide, _, rfl⟩, ⟨_, rfl⟩, ⟨rfl, _, rfl⟩, ⟨_, rfl⟩, ⟨_, rfl⟩⟩

/-- Reset with no transaction open, and with one. -/
theorem witness_ResetInputDiscardsTheOperation : ({ running with rst := true } : State).cfg.wf = true ∧
    ({ running with rst := true } : State).rst = true ∧
    ({ running with rst := true } : State).tx = none ∧
    ({ running with rst := true, tx := some ⟨1, [0x40#8], .finish⟩ } : State).tx = some ⟨1, [0x40#8], .finish⟩ := by
  decide

theorem offered_inv (items : List Item) : (offered items).Inv :=
  ⟨by show Memory.wf []; decide, by show Memory.deviceWf []; decide, rfl, rfl, rfl, by
    show ResultCode.ok = .errPrecond ↔ Cause.none ≠ .none; decide⟩

theorem running_inv : running.Inv :=
  ⟨by decide, by decide, rfl, rfl, rfl, by decide⟩

/-- StepKeepsTheInvariant, TickKeepsTheInvariant, NoFaultIsReached: an idle state and one inside an operation. -/
theorem witness_StepKeepsTheInvariant :
    ((offered [.cmd 1#64 []]).Inv ∧ ∃ t, step (offered [.cmd 1#64 []]) = .next t) ∧
    (running.Inv ∧ ∃ t, step running = .next t) ∧
    ((offered [.cmd 1#64 []]).Inv ∧ ∃ t, tick (offered [.cmd 1#64 []]) = .next t) :=
  ⟨⟨offered_inv _, _, rfl⟩, ⟨running_inv, _, rfl⟩, ⟨offered_inv _, _, rfl⟩⟩

theorem witness_MicroStepsAgreeWithTheOperation :
    (offered [.cmd 1#64 []]).rst = false ∧ (offered [.cmd 1#64 []]).cfg.wf = true ∧
    (offered [.cmd 1#64 []]).phase = .idle ∧ (offered [.cmd 1#64 []]).tx = none ∧
    (offered [.cmd 1#64 []]).inbox = .cmd 1#64 [] :: [] ∧ (offered [.cmd 1#64 []]).shortOperand = false ∧
    (offered [.cmd 0x0000000200000004#64 [0x41#8, 0x0A#8]]).shortOperand = false := by decide

/-- CLEAR on a buffer with a cell set. -/
theorem witness_OnlyConvertAndClearWriteTheBuffer :
    ∃ t, exec (.clear none4) { ready [] with db := [(5, 1#8)] } = .next t ∧
      t.db ≠ ({ ready [] with db := [(5, 1#8)] } : State).db :=
  ⟨_, rfl, by decide +kernel⟩

theorem witness_ConfigurationIsFixed : (∃ t, step running = .next t) ∧
    ∃ t, exec (.fa 7#3 127#7) (ready []) = .next t := ⟨⟨_, rfl⟩, ⟨_, rfl⟩⟩

theorem witness_OnlyFramesAreEmitted : (ready []).cfg.wf = true ∧ (ready []).phase = .idle ∧
    ∃ t, exec (.text none4) (ready []) = .next t ∧ [0x00#8, 0x00#8, 0x10#8, 0xB0#8] ∈ t.tr :=
  ⟨by decide, rfl, _, rfl, by decide +kernel⟩

theorem witness_IdleBlockHoldsItsState : (ready []).rst = false ∧ (ready []).cfg.wf = true ∧
    (ready []).phase = .idle ∧ (ready []).inbox = [] := by decide

/-- Two buffers, each of the three operations on both: a bitmap, a blit of one byte, texts of one newline each. -/
theorem witness_NoOperandByteIsRetained :
    (ready b1).phase = .idle ∧
    (∃ t, exec (.convert ⟨0#8, 0#8, 0#8, 1024#16⟩) (ready b1) = .next t) ∧
    (∃ u, exec (.convert ⟨0#8, 0#8, 0#8, 1024#16⟩) { ready b1 with opb := e4 } = .next u) ∧
    (∃ t, exec (.blit ⟨7#8, 127#8, 1#8, 1#16⟩) (ready [0x55#8]) = .next t) ∧
    (∃ u, exec (.blit ⟨7#8, 127#8, 1#8, 1#16⟩) { ready [0x55#8] with opb := [0xAA#8] } = .next u) ∧
    (∃ t, exec (.text ⟨0#8, 0#8, 0#8, 2#16⟩) (ready [0x41#8, 0x0A#8]) = .next t) ∧
    (∃ u, exec (.text ⟨0#8, 0#8, 0#8, 2#16⟩) { ready [0x41#8, 0x0A#8] with opb := [0x0A#8, 0x42#8] } = .next u) ∧
    (ready [0x41#8, 0x0A#8]).newlines 2 = 1 ∧
    ({ ready [0x41#8, 0x0A#8] with opb := [0x0A#8, 0x42#8] } : State).newlines 2 = 1 :=
  ⟨rfl, ⟨_, rfl⟩, ⟨_, rfl⟩, ⟨_, rfl⟩, ⟨_, rfl⟩, ⟨_, rfl⟩, ⟨_, rfl⟩, by decide, by decide⟩

/-- Each operation that reads a buffer, on one a byte too short; one on a buffer just long enough; and one whose fields
fail its check. -/
theorem witness_ShortOperandBufferIsRefused :
    (offered [.cmd 4#64 []]).rst = false ∧ (offered [.cmd 4#64 []]).cfg.wf = true ∧ (offered [.cmd 4#64 []]).phase = .idle ∧
    (CommandWord.reservedClear 0x0000040000000000#64 = true ∧ CommandWord.op 0x0000040000000000#64 = 0#3 ∧
      (CommandWord.operands 0x0000040000000000#64).len = 1024#16 ∧ (List.replicate 1023 0#8).length < 1024) ∧
    (CommandWord.reservedClear 0x00000001017F0703#64 = true ∧ CommandWord.op 0x00000001017F0703#64 = 3#3 ∧
      CommandWord.operands 0x00000001017F0703#64 = ⟨7#8, 127#8, 1#8, 1#16⟩) ∧
    (CommandWord.op 0x0000000200000004#64 = 4#3 ∧ (CommandWord.operands 0x0000000200000004#64).len = 2#16) ∧
    (offered [.cmd 0x00000001017F0703#64 []]).shortOperand = true ∧
    (offered [.cmd 0x00000001017F0703#64 [0#8]]).shortOperand = false ∧
    (offered [.cmd 0x00000001017F0803#64 []]).shortOperand = false := by decide +kernel

end Sys2Proof.Tests
end

section
/-! The invariant of the machine (Safety.lean): what each shared operation does to it, and from that every step and every
micro-step. -/

namespace Sys2Proof.Machine

/-! ## The invariant in two parts

The control position changes inside an operation in ways the other clauses do not care about, so the two are proved
apart. -/

/-- The clauses of `State.Inv` that do not speak of the control position. -/
structure State.Sound (s : State) : Prop where
  bufferWf : s.db.wf
  deviceMemoryWf : s.dev.gd.deviceWf
  traceLength : s.tr.length = s.sl.length
  anyfailIff : s.res.anyfail = s.sl.contains .fail
  causeIff : s.res.code = .errPrecond ↔ s.res.cause ≠ .none

theorem inv_iff {s : State} : s.Inv ↔ s.Sound ∧ s.positioned = true :=
  ⟨fun h => ⟨⟨h.bufferWf, h.deviceMemoryWf, h.traceLength, h.anyfailIff, h.causeIff⟩, h.isPositioned⟩,
    fun ⟨h, hp⟩ => ⟨h.bufferWf, h.deviceMemoryWf, hp, h.traceLength, h.anyfailIff, h.causeIff⟩⟩

theorem State.Inv.sound {s : State} (h : s.Inv) : s.Sound := (inv_iff.mp h).1

theorem positioned_idle {s : State} (h : s.phase = .idle) : s.positioned = true ↔ s.pos = .rest ∧ s.tx = none := by
  simp [State.positioned, h]

theorem positioned_check {s : State} (h : s.phase = .check) :
    s.positioned = true ↔ s.pos.isChecking = true ∧ s.tx = none := by
  simp [State.positioned, h]

theorem positioned_run {s : State} (h : s.phase = .run) :
    s.positioned = true ↔ s.pos.operation? = some s.latch.op := by
  simp [State.positioned, h]

theorem positioned_done {s : State} (h : s.phase = .done) :
    s.positioned = true ↔ s.pos = .finishing ∧ s.tx = none := by
  simp [State.positioned, h]

namespace State.Sound

variable {s t : State}

/-! ## The clauses about memories and records -/

/-- An update of other fields keeps them. -/
theorem congr (h : s.Sound) (hdb : t.db = s.db) (hdev : t.dev = s.dev) (htr : t.tr = s.tr) (hsl : t.sl = s.sl)
    (hres : t.res = s.res) : t.Sound := by
  obtain ⟨h1, h2, h3, h4, h5⟩ := h
  constructor
  · rwa [hdb]
  · rwa [hdev]
  · rwa [htr, hsl]
  · rwa [hres, hsl]
  · rwa [hres]

/-- Transactions that add as many payloads as statuses and note each status keep them (R12, R29). -/
theorem record (h : s.Sound) {payloads : List (List Byte)} {statuses : List Status}
    (hl : payloads.length = statuses.length) (htr : t.tr = s.tr ++ payloads) (hsl : t.sl = s.sl ++ statuses)
    (hres : t.res = { s.res with anyfail := s.res.anyfail || statuses.contains .fail }) (hdb : t.db.wf)
    (hdev : t.dev.gd.deviceWf) : t.Sound := by
  refine ⟨hdb, hdev, ?_, ?_, ?_⟩
  · rw [htr, hsl, List.length_append, List.length_append, h.traceLength, hl]
  · rw [hres, hsl, h.anyfailIff, List.contains_eq_mem, List.contains_eq_mem, List.contains_eq_mem, ← Bool.decide_or]
    simp only [List.mem_append]
  · rw [hres]
    exact h.causeIff

theorem gd_deviceAfter (h : s.dev.gd.deviceWf) (payloads : List (List Byte)) :
    (s.deviceAfter payloads).gd.deviceWf := by
  unfold State.deviceAfter
  exact List.foldlRecOn (motive := fun d : Device => d.gd.deviceWf) _ _ h fun _ hd _ _ => Device.gd_receive hd

theorem sends (h : s.Sound) {payloads : List (List Byte)} (hs : Sends payloads s t) (hdb : t.db.wf) : t.Sound :=
  h.record (length_statuses s _).symm hs.trace hs.statuses hs.result hdb
    (by rw [hs.device]; exact gd_deviceAfter h.deviceMemoryWf _)

theorem txEnd (h : s.Sound) (o : OpenTx) : (txEnd o s).Sound := by
  refine h.record (payloads := [o.payload]) (statuses := [(s.answer 0).status]) rfl rfl rfl ?_ h.bufferWf
    (Device.gd_receive h.deviceMemoryWf)
  show s.res.note _ = _
  cases (s.answer 0).status <;> rfl

theorem txCall (h : s.Sound) : (txCall s).Sound := by
  unfold Machine.txCall
  split
  · exact h
  · split
    · exact h.congr rfl rfl rfl rfl rfl
    · exact h.congr rfl rfl rfl rfl rfl
    · exact h.txEnd _

theorem accept (h : s.Sound) (op : BitVec 3) (o : Operands) (reservedClear : Bool) :
    (accept op o reservedClear s).Sound :=
  ⟨h.bufferWf, h.deviceMemoryWf, rfl, rfl, h.causeIff⟩

theorem start (h : s.Sound) (p : Pos) : (start p s).Sound := h.congr rfl rfl rfl rfl rfl

theorem deliverDone (h : s.Sound) : (deliverDone s).Sound := h.congr rfl rfl rfl rfl rfl

theorem finish (h : s.Sound) : (finish s).Sound := by
  refine ⟨h.bufferWf, h.deviceMemoryWf, h.traceLength, h.anyfailIff, ?_⟩
  cases hf : s.res.anyfail <;> simp [Result.finish, hf]

theorem reject (h : s.Sound) {c : Cause} (hc : c ≠ .none) : (reject c s).Sound :=
  ⟨h.bufferWf, h.deviceMemoryWf, h.traceLength, h.anyfailIff, iff_of_true rfl hc⟩

/-- A rejected command (60_exceptions.md R212). -/
theorem rejectedWith (h : s.Sound) (op : BitVec 3) (o : Operands) {c : Cause} (hc : c ≠ .none) :
    (s.rejectedWith op o c).Sound :=
  ((h.accept op o true).reject hc).deliverDone

/-- Taking something from the queue. -/
theorem take (h : s.Sound) (rest : List Item) (buf : List Byte) :
    ({ s with inbox := rest, opb := buf } : State).Sound := h.congr rfl rfl rfl rfl rfl

theorem withDevice (h : s.Sound) {d : Device} (hd : d.gd.deviceWf) : ({ s with dev := d } : State).Sound :=
  ⟨h.bufferWf, hd, h.traceLength, h.anyfailIff, h.causeIff⟩

end State.Sound

theorem gd_abandoned {s : State} (h : s.dev.gd.deviceWf) : s.abandoned.gd.deviceWf := by
  unfold State.abandoned
  split
  · exact Device.gd_receive h
  · exact h

/-! ## Updates that keep the position -/

/-- Where phase, position and latch stay, and no transaction is opened, the position stays one. -/
theorem positioned_congr {s t : State} (h : s.positioned = true) (hphase : t.phase = s.phase) (hpos : t.pos = s.pos)
    (hlatch : t.latch = s.latch) (htx : s.tx = none → t.tx = none) : t.positioned = true := by
  cases hp : s.phase with
  | idle =>
    obtain ⟨h1, h2⟩ := (positioned_idle hp).mp h
    exact (positioned_idle (hphase.trans hp)).mpr ⟨hpos.trans h1, htx h2⟩
  | check =>
    obtain ⟨h1, h2⟩ := (positioned_check hp).mp h
    exact (positioned_check (hphase.trans hp)).mpr ⟨by rw [hpos, h1], htx h2⟩
  | run =>
    rw [positioned_run (hphase.trans hp), hpos, hlatch]
    exact (positioned_run hp).mp h
  | done =>
    obtain ⟨h1, h2⟩ := (positioned_done hp).mp h
    exact (positioned_done (hphase.trans hp)).mpr ⟨hpos.trans h1, htx h2⟩

/-- The end of an operation, however it ended, is at rest. -/
theorem positioned_deliverDone {s : State} (h : s.tx = none) : (deliverDone s).positioned = true :=
  (positioned_idle rfl).mpr ⟨rfl, h⟩

/-! ## Reset -/

theorem blockReset_inv {s : State} (h : s.Inv) : (blockReset s).Inv :=
  inv_iff.mpr ⟨⟨⟨.nil, nofun⟩, gd_abandoned h.deviceMemoryWf, rfl, rfl, ⟨nofun, fun hc => absurd rfl hc⟩⟩, rfl⟩

/-! ## Instructions -/

/-- Every instruction keeps the invariant. -/
theorem Executed.inv {i : Instr} {s t : State} (h : s.Inv) (he : Executed s i t) : t.Inv := by
  obtain ⟨hs, hp⟩ := inv_iff.mp h
  refine inv_iff.mpr ?_
  cases he with
  | waits => exact ⟨hs, hp⟩
  | rejected op o c hi hc =>
    exact ⟨hs.rejectedWith op o hc, positioned_deliverDone ((positioned_idle hi).mp hp).2⟩
  | ran op o p run payloads hi hsends _ hw _ =>
    exact ⟨(((hs.accept op o true).start p).sends hsends (hw hs.bufferWf)).finish.deliverDone,
      positioned_deliverDone (hsends.closed ((positioned_idle hi).mp hp).2)⟩
  | frame payload hi =>
    exact ⟨hs.sends (Sends.txn payload s) hs.bufferWf, positioned_congr hp rfl rfl rfl fun _ => rfl⟩
  | device d hd => exact ⟨hs.withDevice (by rw [hd]; exact hs.deviceMemoryWf), hp⟩
  | copied b => exact ⟨hs.congr rfl rfl rfl rfl rfl, hp⟩

/-- Taking a word goes to CHECK (10_state.md R31). -/
theorem acceptWord_inv {s : State} (h : s.Inv) (hi : s.phase = .idle) (w : CommandWord) : (acceptWord w s).Inv :=
  inv_iff.mpr ⟨h.sound.accept _ _ _, (positioned_check rfl).mpr ⟨rfl, ((positioned_idle hi).mp h.isPositioned).2⟩⟩

theorem rejectWord_inv {s : State} (h : s.Inv) (hi : s.phase = .idle) (w : CommandWord) : (rejectWord w s).Inv :=
  inv_iff.mpr ⟨((h.sound.accept _ _ _).reject (by decide)).deliverDone,
    positioned_deliverDone ((positioned_idle hi).mp h.isPositioned).2⟩

/-- Taking something from the queue changes nothing the invariant speaks of. -/
theorem State.Inv.take {s : State} (h : s.Inv) (rest : List Item) (buf : List Byte) :
    ({ s with inbox := rest, opb := buf } : State).Inv :=
  inv_iff.mpr ⟨h.sound.take rest buf, h.isPositioned⟩

theorem idleStep_inv {s t : State} (h : s.Inv) (hi : s.phase = .idle) (hstep : idleStep s = .next t) : t.Inv := by
  rcases idleStep_cases hstep with rfl | ⟨b, rest, -, rfl⟩ | ⟨rest, buf, i, he⟩ | ⟨rest, buf, w, rfl⟩
  · exact h
  · exact inv_iff.mpr ⟨((h.take rest s.opb).sound.withDevice (Device.gd_writeData h.deviceMemoryWf)), h.isPositioned⟩
  · exact he.inv (h.take rest buf)
  · exact rejectWord_inv (h.take rest buf) hi w

/-! ## Micro-steps -/

theorem checkStep_inv {s : State} (h : s.Inv) (hc : s.phase = .check) (reservedClear : Bool) :
    (checkStep reservedClear s).Inv := by
  obtain ⟨-, htx⟩ := (positioned_check hc).mp h.isPositioned
  rcases checkStep_cases reservedClear s with ⟨hp, e⟩ | ⟨c, hne, -, e⟩
  · rw [e]
    exact inv_iff.mpr ⟨h.sound.start _, (positioned_run rfl).mpr (firstPos_operation hp)⟩
  · rw [e]
    exact inv_iff.mpr ⟨h.sound.reject hne, (positioned_done rfl).mpr ⟨rfl, htx⟩⟩

theorem txCall_inv {s : State} (h : s.Inv) (hr : s.phase = .run) : (txCall s).Inv := by
  obtain ⟨-, -, -, hphase, hpos, hlatch, -⟩ := txCall_fixed s
  refine inv_iff.mpr ⟨h.sound.txCall, (positioned_run (hphase.trans hr)).mpr ?_⟩
  rw [hpos, hlatch]
  exact (positioned_run hr).mp h.isPositioned

theorem Ran.inv {s t : State} (h : s.Inv) (hr : s.phase = .run) (htx : s.tx = none) (hran : Ran s t) : t.Inv := by
  have hop := (positioned_run hr).mp h.isPositioned
  refine inv_iff.mpr ?_
  cases hran with
  | silent f p hs hw hp =>
    obtain ⟨-, hlatch, hphase, -⟩ := hs.fixed
    refine ⟨(h.sound.sends hs (hw h.bufferWf)).congr rfl rfl rfl rfl rfl,
      (positioned_run (s := (f s).goto p) (hphase.trans hr)).mpr ?_⟩
    rw [goto_pos, goto_latch, hlatch, hp, hop]
  | begins payload p hp =>
    exact ⟨h.sound.congr rfl rfl rfl rfl rfl, (positioned_run (s := (txBegin payload s).goto p) hr).mpr (hp.trans hop)⟩
  | ends f hs hw =>
    exact ⟨(h.sound.sends hs (hw h.bufferWf)).finish, (positioned_done rfl).mpr ⟨rfl, hs.closed htx⟩⟩

theorem micro_inv {s t : State} (h : s.Inv) (hstep : micro s = .next t) : t.Inv := by
  rcases micro_cases hstep with ⟨hc, b, -, rfl⟩ | ⟨hr, -, rfl⟩ | ⟨hr, htx, hran⟩ | ⟨hd, -, rfl⟩
  · exact checkStep_inv h hc b
  · exact txCall_inv h hr
  · exact hran.inv h hr htx
  · exact inv_iff.mpr ⟨h.sound.deliverDone, positioned_deliverDone ((positioned_done hd).mp h.isPositioned).2⟩

/-! ## Steps -/

/-- Settles O42: by the three things a step can do, namely serve a reset, take what is offered, or make a micro-step. -/
theorem stepKeepsTheInvariant : Obligations.StepKeepsTheInvariant := by
  intro s t h hstep
  rcases step_cases hstep with ⟨-, -, rfl⟩ | ⟨-, -, hi, -, hidle⟩ | ⟨-, -, -, hmicro⟩
  · exact blockReset_inv h
  · exact idleStep_inv h hi hidle
  · exact micro_inv h hmicro

/-- Settles O43: a tick is a step, or takes a command word and no more. -/
theorem tickKeepsTheInvariant : Obligations.TickKeepsTheInvariant := by
  intro s t h htick
  rcases tick_cases htick with hstep | ⟨hi, rest, buf, w, -, rfl⟩
  · exact stepKeepsTheInvariant s t h hstep
  · exact acceptWord_inv (h.take rest buf) hi w

end Sys2Proof.Machine
end

section
/-! The constraints on a configuration (00_scope.md R7): that `Config.wf` is what the rule writes out, and what the
constraints are for. -/

namespace Sys2Proof

/-! ## Facts about bytes, by trying every value -/

theorem nibbles_or : ∀ b : Byte, (b &&& 0xF0#8) ||| (b.extractLsb' 0 4).setWidth 8 = b := by decide +kernel

theorem low_or_eq_append : ∀ b : Byte, ∀ n : BitVec 4, b &&& 0x0F#8 = 0x00#8 →
    b ||| n.setWidth 8 = b.extractLsb' 4 4 ++ n := by decide +kernel

theorem low_or_eq_add : ∀ b : Byte, ∀ n : BitVec 4, b &&& 0x0F#8 = 0x00#8 → b ||| n.setWidth 8 = b + n.setWidth 8 := by
  decide +kernel

/-! ## Disjoint sets of command bytes are different high nibbles (R7 (d)) -/

/-- Two columns' sets of command bytes are disjoint exactly when their bases differ. -/
theorem columnBytes_disjoint {a b : Byte} (ha : a &&& 0x0F#8 = 0x00#8) (hb : b &&& 0x0F#8 = 0x00#8) :
    (∀ n m : BitVec 4, a ||| n.setWidth 8 ≠ b ||| m.setWidth 8) ↔ a ≠ b := by
  constructor
  · rintro h rfl
    exact h 0 0 rfl
  · intro hne n m e
    have hmask := congrArg (· &&& 0xF0#8) e
    simp only [low_or_high _ _ ha, low_or_high _ _ hb] at hmask
    exact hne hmask

/-- A column's and the pages' sets are disjoint exactly when the high nibbles differ. -/
theorem pageBytes_disjoint {a p : Byte} (ha : a &&& 0x0F#8 = 0x00#8) (hp : p &&& 0x07#8 = 0x00#8) :
    (∀ (n : BitVec 4) (q : PageIdx), a ||| n.setWidth 8 ≠ p ||| q.setWidth 8) ↔ p &&& 0xF0#8 ≠ a := by
  constructor
  · rintro h rfl
    exact h (p.extractLsb' 0 4) 0 (by rw [nibbles_or]; simp)
  · intro hne n q e
    have hmask := congrArg (· &&& 0xF0#8) e
    simp only [low_or_high _ _ ha, page_or_nibble _ _ hp] at hmask
    exact hne hmask.symm

namespace Config

variable {c : Config}

/-- `Config.wf` as R7 writes it, (d) by sets of command bytes. -/
theorem wf_iff_constraints : c.wf = true ↔
    (c.ctrlCmdStream ≠ c.ctrlCmdSingle ∧ c.ctrlCmdStream ≠ c.ctrlDataStream ∧ c.ctrlCmdSingle ≠ c.ctrlDataStream) ∧
    (c.colLowBase &&& 0x0F#8 = 0 ∧ c.colHighBase &&& 0x0F#8 = 0) ∧
    c.pageSelBase &&& 0x07#8 = 0 ∧
    (∀ n m : BitVec 4, c.colLowBase ||| n.setWidth 8 ≠ c.colHighBase ||| m.setWidth 8) ∧
    (∀ (n : BitVec 4) (p : PageIdx), c.colLowBase ||| n.setWidth 8 ≠ c.pageSelBase ||| p.setWidth 8) ∧
    (∀ (n : BitVec 4) (p : PageIdx), c.colHighBase ||| n.setWidth 8 ≠ c.pageSelBase ||| p.setWidth 8) := by
  constructor
  · intro h
    obtain ⟨h1, h2, h3, hl, hh, hp, hlh, hpl, hph⟩ := wf_parts h
    exact ⟨⟨h1, h2, h3⟩, ⟨hl, hh⟩, hp, (columnBytes_disjoint hl hh).mpr hlh, (pageBytes_disjoint hl hp).mpr hpl,
      (pageBytes_disjoint hh hp).mpr hph⟩
  · rintro ⟨⟨h1, h2, h3⟩, ⟨hl, hh⟩, hp, hlh, hpl, hph⟩
    have dlh := (columnBytes_disjoint hl hh).mp hlh
    have dpl := (pageBytes_disjoint hl hp).mp hpl
    have dph := (pageBytes_disjoint hh hp).mp hph
    simp [wf, controlsDiffer, basesClear, commandsDiffer, *]

end Config

namespace Machine

theorem step_badConfiguration {s : State} (h : s.cfg.wf = false) : step s = .refused .badConfiguration := by
  simp [step, h]

/-- Settles O4: the four constraints, the usual values, the refusal, and the purposes, each by its own lemma. -/
theorem configurationConstraints : Obligations.ConfigurationConstraints := by
  refine ⟨fun c => Config.wf_iff_constraints, by decide, fun s => step_badConfiguration, fun c h => ?_⟩
  obtain ⟨-, -, -, hl, hh, hp, -⟩ := Config.wf_parts h
  refine ⟨fun n => ?_, fun p => ?_, fun n => ?_, decodeCommand_page h⟩
  · exact ⟨low_or_eq_add _ n hl, low_or_eq_append _ n hl, low_or_eq_add _ n hh, low_or_eq_append _ n hh⟩
  · exact ⟨page_or_low _ p hp, page_or_high _ p hp⟩
  · exact ⟨decodeCommand_low h n, decodeCommand_high h n⟩

end Machine

end Sys2Proof
end

section
/-! Single steps and single updates: a frame by itself (00_scope.md R12), what a step of an idle block runs (10_state.md
R31), and the cells of the Display Buffer (20_memory.md R51). -/

namespace Sys2Proof.Machine

/-! ## A frame by itself -/

/-- How many bytes of a payload of length `n` the device takes (20_memory.md R63). -/
def deliveredCount (a : Answer) (n : Nat) : Nat :=
  match a.status with
  | .ok => n
  | .fail => a.taken

theorem delivered_eq_take (a : Answer) (payload : List Byte) :
    delivered a payload = payload.take (deliveredCount a payload.length) := by
  unfold delivered deliveredCount
  cases a.status with
  | ok => exact (List.take_length).symm
  | fail => rfl

theorem deliveredCount_ok {a : Answer} (h : a.status = .ok) (n : Nat) : deliveredCount a n = n := by
  simp [deliveredCount, h]

/-- Settles O18: a well-formed frame by itself is `txn` of its payload, whose laws give every clause. -/
theorem frameIsOneTransaction : Obligations.FrameIsOneTransaction := by
  intro i payload s hw he htx
  refine ⟨txn payload s, deliveredCount (s.answer 0) payload.length, exec_frame hw he htx, txn_calls s payload,
    rfl, rfl, rfl, rfl, rfl, rfl, ?_, fun hok => (deliveredCount_ok hok _).ge, fun k => ?_, ?_⟩
  · rw [txn_dev, delivered_eq_take]
  · rw [answer_txn, Nat.add_comm]
  · simp

/-! ## What a step of an idle block runs -/

/-- An idle block that fetches an encoding that decodes runs the instruction. -/
theorem idleStep_instr {s u : State} {x : Encoded} {i : Instr} (hf : fetch s = .item x u)
    (hd : decode s.cfg x = .instr i) : idleStep s = exec i u := by
  simp [idleStep, hf, hd]

/-- What does not decode is rejected or refused. -/
theorem idleStep_rejected {s u : State} {x : Encoded} {e : DecodeError} (hf : fetch s = .item x u)
    (hd : decode s.cfg x = .rejected e) : idleStep s = illegal x u := by
  simp [idleStep, hf, hd]

theorem fetch_cmd {s : State} {w : CommandWord} {buf : List Byte} {rest : List Item} (h : s.inbox = .cmd w buf :: rest) :
    fetch s = .item (.word w) { s with inbox := rest, opb := buf } := by
  simp [fetch, h]

theorem fetch_frame {s : State} {payload : List Byte} {rest : List Item} (h : s.inbox = .frame payload :: rest) :
    fetch s = .item (.payload payload) { s with inbox := rest } := by
  simp [fetch, h]

theorem fetch_control {s : State} {b : Byte} {rest : List Item} (h : s.inbox = .rx b :: rest)
    (hrx : s.dev.rx = .control) : fetch s = .item (.control b) { s with inbox := rest } := by
  simp [fetch, h, hrx]

theorem fetch_command {s : State} {b : Byte} {rest : List Item} (h : s.inbox = .rx b :: rest)
    (hrx : s.dev.rx = .oneCommand ∨ s.dev.rx = .commands) : fetch s = .item (.command b) { s with inbox := rest } := by
  rcases hrx with hrx | hrx <;> simp [fetch, h, hrx]

theorem fetch_copy {s : State} {src dst : Byte} {srcBit dstBit : BitVec 3} {rest : List Item}
    (h : s.inbox = .copy src srcBit dst dstBit :: rest) :
    fetch s = .item (.bitCopy src srcBit dst dstBit) { s with inbox := rest } := by
  simp [fetch, h]

/-- Settles O35: for each kind of stimulus, what is fetched, and that a stimulus other than a command word is never refused
for its operand buffer. -/
theorem stepRunsTheDecodedInstruction : Obligations.StepRunsTheDecodedInstruction := by
  intro s i rest hrst hcfg hidle
  have runs : ∀ {x : Encoded} {u : State}, s.shortOperand = false → fetch s = .item x u → decode s.cfg x = .instr i →
      step s = exec i u := fun hshort hf hd =>
    (step_idle hrst hcfg hidle hshort).trans (idleStep_instr hf hd)
  have other : ∀ {m : Item}, s.inbox = m :: rest → (∀ w buf, m ≠ .cmd w buf) → s.shortOperand = false :=
    fun h hm => shortOperand_other fun w buf rest' e => hm w buf (List.cons.inj (h.symm.trans e)).1
  refine ⟨fun w buf h hshort hd => ?_, fun payload h hd => ?_, fun b h hrx hd => ?_, fun b h hrx hd => ?_,
    fun src srcBit dst dstBit h hi => ?_⟩
  · exact runs hshort (fetch_cmd h) hd
  · exact runs (other h (by simp)) (fetch_frame h) hd
  · exact runs (other h (by simp)) (fetch_control h hrx) hd
  · exact runs (other h (by simp)) (fetch_command h hrx) hd
  · exact runs (other h (by simp)) (fetch_copy h) (hi ▸ rfl)

/-! ## Display Buffer cells -/

/-- Settles O49: reading a cell after a write. -/
theorem bufferReadsWhatWasWritten : Obligations.BufferReadsWhatWasWritten := cell_setCell

end Sys2Proof.Machine
end

section
/-! The two forms of every operation (00_scope.md R8): taking a command word, CHECK, and the operation's micro-steps lead,
busy all the way, to the state in DONE from which the completion event gives what the operation's function gives. -/

namespace Sys2Proof.Machine

/-! ## From CHECK to DONE -/

/-- A block in DONE with its completion event still to deliver and no reset asserted. -/
def Finishing (s : State) : Prop := s.rst = false ∧ s.cfg.wf = true ∧ s.phase = .done ∧ s.pos = .finishing

theorem Finishing.tick {s : State} (g : Finishing s) : tick s = .next (deliverDone s) := by
  obtain ⟨hrst, hcfg, hphase, hpos⟩ := g
  rw [tick_busy hrst hcfg (by rw [hphase]; decide)]
  simp [micro, hphase, hpos]

theorem Running.finishing {s : State} (g : Running s) : Finishing (finish s) := ⟨g.1, g.2.1, rfl, rfl⟩

/-- A block that has taken a command word: in CHECK, with no transaction open and no reset asserted. -/
def Checking (reservedClear : Bool) (s : State) : Prop :=
  s.rst = false ∧ s.cfg.wf = true ∧ s.phase = .check ∧ s.pos = .checking reservedClear ∧ s.tx = none

section
variable {reservedClear : Bool} {s : State} (g : Checking reservedClear s)
include g

theorem Checking.tick : tick s = .next (checkStep reservedClear s) := by
  obtain ⟨hrst, hcfg, hphase, hpos, -⟩ := g
  rw [tick_busy hrst hcfg (by rw [hphase]; decide)]
  simp [micro, hphase, hpos]

theorem Checking.running (p : Pos) : Running (start p s) := by
  obtain ⟨hrst, hcfg, -, -, htx⟩ := g
  exact ⟨hrst, hcfg, rfl, htx⟩

theorem Checking.finishing (c : Cause) : Finishing (reject c s) := by
  obtain ⟨hrst, hcfg, -, -, -⟩ := g
  exact ⟨hrst, hcfg, rfl, rfl⟩

/-- A command that fails a check goes to DONE in one micro-step (60_exceptions.md R212). -/
theorem Checking.rejects {c : Cause} (hc : precondition reservedClear s = c) (hne : c ≠ .none) :
    BusyTicks s (reject c s) := by
  refine .single ⟨?_, by simp⟩
  rcases checkStep_cases reservedClear s with ⟨h, -⟩ | ⟨c', -, h, e⟩
  · exact absurd (hc.symm.trans h) hne
  · rw [g.tick, e, ← h, hc]

/-- A command that passes its checks goes to the operation's first micro-step. -/
theorem Checking.starts (hc : precondition reservedClear s = .none) : BusyTicks s (start (firstPos s.latch.op) s) := by
  refine .single ⟨?_, by simp⟩
  rcases checkStep_cases reservedClear s with ⟨-, e⟩ | ⟨c', hne, h, -⟩
  · rw [g.tick, e]
  · exact absurd (h.symm.trans hc) hne

end

/-! ## One operation -/

/-- The micro-steps from `u`, busy all the way, and then the completion event give `t`. -/
def Completes (u t : State) : Prop := ∃ d, BusyTicks u d ∧ Finishing d ∧ t = deliverDone d

/-- Every operation, given that its micro-steps from a started state lead to what its function `run` gives. -/
theorem completed_completes {check : State → Cause} {p : Pos} {run : State → State} {u : State} (g : Checking true u)
    (hc : precondition true u = check u) (hp : firstPos u.latch.op = p)
    (hs : ∃ payloads, Sends payloads (start p u) (run (start p u)))
    (hrun : check u = .none → BusyTicks (start p u) (finish (run (start p u)))) :
    Completes u (completed check p run u) := by
  unfold completed
  split
  · rename_i h
    obtain ⟨payloads, hs⟩ := hs
    refine ⟨_, ?_, ((g.running p).sends hs).finishing, rfl⟩
    exact (hp ▸ g.starts (hc.trans h)).trans (hrun h)
  · rename_i h
    exact ⟨_, g.rejects hc h, g.finishing _, rfl⟩

theorem operation_completes {op : BitVec 3} {o : Operands} {check : State → Cause} {p : Pos} {run : State → State}
    {s : State} (hidle : s.phase = .idle) (g : Checking true (accept op o true s))
    (hc : precondition true (accept op o true s) = check (accept op o true s)) (hp : firstPos op = p)
    (hs : ∀ u, ∃ payloads, Sends payloads u (run u))
    (hrun : check (accept op o true s) = .none → Running (s.started op o p) →
      BusyTicks ((s.started op o p).goto p) (finish (run (s.started op o p)))) :
    ∃ t, operation op o check p run s = .next t ∧ Completes (accept op o true s) t :=
  ⟨_, operation_idle hidle, completed_completes g hc hp (hs _) fun h => hrun h (g.running p)⟩

/-! ## Every command word -/

/-- The operations' codes (30_encoding.md R91). -/
theorem decodeWord_instr {w : CommandWord} {i : Instr} (h : decodeWord w = .instr i) : w.reservedClear = true ∧
    ((w.op = 0#3 ∧ i = .convert w.operands) ∨ (w.op = 1#3 ∧ i = .flush w.operands) ∨
      (w.op = 2#3 ∧ i = .clear w.operands) ∨ (w.op = 3#3 ∧ i = .blit w.operands) ∨
      (w.op = 4#3 ∧ i = .text w.operands)) := by
  unfold decodeWord at h
  split at h
  · rename_i hr
    refine ⟨hr, ?_⟩
    split_ifs at h <;> simp_all
  · cases h

/-- A word that is no operation fails CHECK with `E_OP` (R93). -/
theorem precondition_rejected {w : CommandWord} {e : DecodeError} {u : State} (h : decodeWord w = .rejected e)
    (hop : u.latch.op = w.op) : precondition w.reservedClear u = .eOp := by
  unfold decodeWord at h
  unfold precondition
  rw [hop]
  split_ifs at h ⊢ <;> rfl

section
variable {w : CommandWord} {s : State} (hidle : s.phase = .idle) (g : Checking w.reservedClear (acceptWord w s))
include g

theorem rejected_completes {e : DecodeError} (h : decodeWord w = .rejected e) :
    Completes (acceptWord w s) (rejectWord w s) :=
  ⟨_, g.rejects (precondition_rejected h rfl) (by decide), g.finishing _, rfl⟩

include hidle

theorem instr_completes {i : Instr} (h : decodeWord w = .instr i) :
    ∃ t, exec i s = .next t ∧ Completes (acceptWord w s) t := by
  obtain ⟨hr, hi⟩ := decodeWord_instr h
  unfold acceptWord at g ⊢
  rw [hr] at g ⊢
  rcases hi with ⟨hop, rfl⟩ | ⟨hop, rfl⟩ | ⟨hop, rfl⟩ | ⟨hop, rfl⟩ | ⟨hop, rfl⟩ <;> rw [hop] at g ⊢
  · exact operation_completes hidle g rfl rfl (fun u => ⟨_, runConvert_sends u⟩) fun _ gr => runConvert_ticks gr
  · exact operation_completes hidle g rfl rfl (fun u => ⟨_, runFlush_sends u⟩) fun _ gr => runFlush_ticks gr
  · exact operation_completes hidle g rfl rfl (fun u => ⟨_, runClear_sends u⟩) fun _ gr => runClear_ticks gr
  · refine operation_completes hidle g rfl rfl (fun u => ⟨_, runBlit_sends u⟩) fun hc gr => runBlit_ticks gr ?_
    obtain ⟨-, -, hw, -⟩ := blitCheck_none.mp hc
    exact hw
  · exact operation_completes hidle g rfl rfl (fun u => ⟨_, (runText_spec u).sends⟩) fun _ gr => runText_ticks gr

end

/-- Taking the word is the first tick, the completion event the last, and the block is busy between. -/
theorem Completes.ticks {s u t : State} (h : Completes u t) (htake : tick s = .next u) (hbusy : u.phase ≠ .idle) :
    ∃ n, ticks n s = .next t ∧ ∀ k, 0 < k → k < n → ∃ v, Machine.ticks k s = .next v ∧ v.phase ≠ .idle := by
  obtain ⟨d, hd, hfin, rfl⟩ := h
  obtain ⟨n, hn, hall⟩ := BusyTicks.ticks (.head ⟨htake, hbusy⟩ hd)
  exact ⟨n + 1, ticks_succ hn hfin.tick, fun k hk hk' => hall k hk (by omega)⟩

/-- An idle block offered a command word that is not refused only takes it (10_state.md R31). -/
theorem tick_cmd {s : State} {w : CommandWord} {buf : List Byte} {rest : List Item} (hrst : s.rst = false)
    (hcfg : s.cfg.wf = true) (hidle : s.phase = .idle) (hinbox : s.inbox = .cmd w buf :: rest)
    (hshort : s.shortOperand = false) : tick s = .next (acceptWord w { s with inbox := rest, opb := buf }) := by
  simp [tick, hrst, hcfg, hidle, hshort, hinbox]

/-- Settles O45: by the decoding of the word, each operation by the lemma that says where its micro-steps lead. -/
theorem microStepsAgreeWithTheOperation : Obligations.MicroStepsAgreeWithTheOperation := by
  intro s w buf rest hrst hcfg hidle htx hinbox hshort
  have hstep := step_idle hrst hcfg hidle hshort
  have htake := tick_cmd hrst hcfg hidle hinbox hshort
  have g : Checking w.reservedClear (acceptWord w { s with inbox := rest, opb := buf }) := ⟨hrst, hcfg, rfl, rfl, htx⟩
  cases hd : decodeWord w with
  | instr i =>
    obtain ⟨t, hexec, hc⟩ := instr_completes (s := { s with inbox := rest, opb := buf }) hidle g hd
    obtain ⟨n, hn, hall⟩ := hc.ticks htake (by simp [acceptWord])
    exact ⟨t, n, by rw [hstep, idleStep_instr (fetch_cmd hinbox) hd, hexec], hn, hall⟩
  | rejected e =>
    obtain ⟨n, hn, hall⟩ := (rejected_completes g hd).ticks htake (by simp [acceptWord])
    exact ⟨_, n, by rw [hstep, idleStep_rejected (fetch_cmd hinbox) hd]; rfl, hn, hall⟩

end Sys2Proof.Machine
end

section
/-! The control position and what surrounds it: what every step leaves to the host (10_state.md R30, R32, R38), how the phase
advances (R27, R28, R31), that no fault is reached, what reset leaves (R39), and who writes the Display Buffer (R22). -/

namespace Sys2Proof.Machine

/-! ## Reset -/

/-- Settles O39: each value is the one `State.reset` is written with. -/
theorem resetValues : Obligations.ResetValues :=
  ⟨fun _ _ => rfl, rfl, rfl, rfl, rfl, rfl, rfl, rfl, rfl, rfl, rfl, rfl, rfl, rfl⟩

/-- Settles O41: the memories list no cell, nothing is recorded, and the block is at rest. -/
theorem resetMeetsTheInvariant : Obligations.ResetMeetsTheInvariant :=
  inv_iff.mpr ⟨⟨⟨.nil, nofun⟩, ⟨.nil, nofun⟩, rfl, rfl, nofun, fun hc => absurd rfl hc⟩, rfl⟩

/-! ## What stays the host's -/

/-- An instruction leaves the configuration, the queue and the operand buffer (R30, R38). -/
theorem Executed.host {i : Instr} {s t : State} (h : Executed s i t) :
    t.cfg = s.cfg ∧ t.inbox = s.inbox ∧ t.opb = s.opb := by
  cases h with
  | waits | rejected | frame | device | copied => exact ⟨rfl, rfl, rfl⟩
  | ran op o p run payloads hidle hsends =>
    obtain ⟨hopb, hinbox, -⟩ := hsends.outside
    exact ⟨hsends.fixed.1, hinbox, hopb⟩

/-- So does a micro-step of a running operation. -/
theorem Ran.host {s t : State} (h : Ran s t) : t.cfg = s.cfg ∧ t.inbox = s.inbox ∧ t.opb = s.opb := by
  cases h with
  | begins => exact ⟨rfl, rfl, rfl⟩
  | silent f p hsends | ends f hsends =>
    obtain ⟨hopb, hinbox, -⟩ := hsends.outside
    exact ⟨hsends.fixed.1, hinbox, hopb⟩

theorem checkStep_host (reservedClear : Bool) (s : State) : (checkStep reservedClear s).cfg = s.cfg ∧
    (checkStep reservedClear s).inbox = s.inbox ∧ (checkStep reservedClear s).opb = s.opb := by
  rcases checkStep_cases reservedClear s with ⟨-, e⟩ | ⟨c, -, -, e⟩ <;> rw [e] <;> exact ⟨rfl, rfl, rfl⟩

/-- Every micro-step leaves the configuration, the queue and the operand buffer. -/
theorem micro_host {s t : State} (h : micro s = .next t) : t.cfg = s.cfg ∧ t.inbox = s.inbox ∧ t.opb = s.opb := by
  rcases micro_cases h with ⟨-, b, -, rfl⟩ | ⟨-, -, rfl⟩ | ⟨-, -, hran⟩ | ⟨-, -, rfl⟩
  · exact checkStep_host b s
  · obtain ⟨hcfg, hinbox, hopb, -⟩ := txCall_fixed s
    exact ⟨hcfg, hinbox, hopb⟩
  · exact hran.host
  · exact ⟨rfl, rfl, rfl⟩

theorem idleStep_cfg {s t : State} (h : idleStep s = .next t) : t.cfg = s.cfg := by
  rcases idleStep_cases h with rfl | ⟨b, rest, -, rfl⟩ | ⟨rest, buf, i, he⟩ | ⟨rest, buf, w, rfl⟩
  · rfl
  · rfl
  · exact he.host.1
  · rfl

theorem step_cfg {s t : State} (h : step s = .next t) : t.cfg = s.cfg := by
  rcases step_cases h with ⟨-, -, rfl⟩ | ⟨-, -, -, -, hidle⟩ | ⟨-, -, -, hmicro⟩
  · rfl
  · exact idleStep_cfg hidle
  · exact (micro_host hmicro).1

theorem tick_cfg {s t : State} (h : tick s = .next t) : t.cfg = s.cfg := by
  rcases tick_cases h with hstep | ⟨-, rest, buf, w, -, rfl⟩
  · exact step_cfg hstep
  · rfl

/-- Settles O47: by what a step, a tick and an instruction can do. -/
theorem configurationIsFixed : Obligations.ConfigurationIsFixed :=
  ⟨fun _ _ h => h.elim step_cfg tick_cfg, fun _ _ _ h => (exec_executed h).host⟩

/-- What a busy block without a reset does is its micro-step. -/
theorem step_busy_cases {s t : State} (hrst : s.rst = false) (hbusy : s.phase ≠ .idle) (h : step s = .next t) :
    s.cfg.wf = true ∧ micro s = .next t := by
  rcases step_cases h with ⟨-, hr, -⟩ | ⟨-, -, hidle, -⟩ | ⟨-, hcfg, -, hmicro⟩
  · rw [hrst] at hr
    cases hr
  · exact absurd hidle hbusy
  · exact ⟨hcfg, hmicro⟩

/-- Settles O37: a busy block makes a micro-step, which leaves the queue; a command presented to it waits. -/
theorem busyBlockTakesNoCommand : Obligations.BusyBlockTakesNoCommand :=
  ⟨fun _ _ hrst hbusy h => (micro_host (step_busy_cases hrst hbusy h).2).2,
    fun _ _ hbusy => ⟨operation_busy hbusy, operation_busy hbusy, operation_busy hbusy, operation_busy hbusy,
      operation_busy hbusy⟩⟩

/-! ## The phases -/

/-- An idle block that ticks with a command word at the head of its queue has taken it. -/
theorem tick_takes {s t : State} {w : CommandWord} {buf : List Byte} {rest : List Item} (hrst : s.rst = false)
    (hidle : s.phase = .idle) (hinbox : s.inbox = .cmd w buf :: rest) (h : tick s = .next t) :
    t = acceptWord w { s with inbox := rest, opb := buf } := by
  rcases tick_cases h with hstep | ⟨-, rest', buf', w', hinbox', rfl⟩
  · rcases step_cases hstep with ⟨-, hr, -⟩ | ⟨-, hcfg, -, hshort, -⟩ | ⟨-, -, hbusy, -⟩
    · rw [hrst] at hr
      cases hr
    · rw [tick_cmd hrst hcfg hidle hinbox hshort] at h
      cases h
      rfl
    · exact absurd hidle hbusy
  · rw [hinbox] at hinbox'
    cases hinbox'
    rfl

/-- An instruction on an idle block leaves it idle: an operation runs to its completion event (R28). -/
theorem Executed.idle {i : Instr} {s t : State} (h : Executed s i t) (hidle : s.phase = .idle) : t.phase = .idle := by
  cases h with
  | waits | frame | device | copied => exact hidle
  | rejected | ran => rfl

/-- An idle block that is offered no command word stays idle. -/
theorem tick_idle {s t : State} (hrst : s.rst = false) (hidle : s.phase = .idle)
    (hinbox : ∀ w buf rest, s.inbox ≠ .cmd w buf :: rest) (h : tick s = .next t) : t.phase = .idle := by
  rcases tick_cases h with hstep | ⟨-, rest, buf, w, hcmd, -⟩
  · rcases step_cases hstep with ⟨-, -, rfl⟩ | ⟨-, -, -, -, hstep⟩ | ⟨-, -, hbusy, -⟩
    · rfl
    · rcases idleStep_cases hstep with rfl | ⟨b, rest, -, rfl⟩ | ⟨rest, buf, i, he⟩ | ⟨rest, buf, w, rfl⟩
      · exact hidle
      · exact hidle
      · exact he.idle hidle
      · rfl
    · exact absurd hidle hbusy
  · exact absurd hcmd (hinbox w buf rest)

/-- A tick of a busy block is its micro-step. -/
theorem tick_busy_cases {s t : State} (hrst : s.rst = false) (hbusy : s.phase ≠ .idle) (h : tick s = .next t) :
    s.cfg.wf = true ∧ micro s = .next t := by
  rcases tick_cases h with hstep | ⟨hidle, -⟩
  · exact step_busy_cases hrst hbusy hstep
  · exact absurd hidle hbusy

/-- CHECK goes to RUN or to DONE by what its precondition finds (R28, 60_exceptions.md R212). -/
theorem micro_check {s t : State} (hphase : s.phase = .check) (h : micro s = .next t) :
    ∃ reservedClear, s.pos = .checking reservedClear ∧ t = checkStep reservedClear s := by
  rcases micro_cases h with ⟨-, hcheck⟩ | ⟨hp, -⟩ | ⟨hp, -⟩ | ⟨hp, -⟩
  case inl => exact hcheck
  all_goals exact absurd (hphase.symm.trans hp) (by decide)

theorem micro_done {s t : State} (hphase : s.phase = .done) (h : micro s = .next t) : t = deliverDone s := by
  rcases micro_cases h with ⟨hp, -⟩ | ⟨hp, -⟩ | ⟨hp, -⟩ | ⟨-, -, hdone⟩
  case inr.inr.inr => exact hdone
  all_goals exact absurd (hphase.symm.trans hp) (by decide)

theorem checkStep_none {reservedClear : Bool} {s : State} (h : precondition reservedClear s = .none) :
    checkStep reservedClear s = start (firstPos s.latch.op) s := by
  rcases checkStep_cases reservedClear s with ⟨-, e⟩ | ⟨c, hc, hpre, -⟩
  · exact e
  · exact absurd (hpre.symm.trans h) hc

theorem checkStep_reject {reservedClear : Bool} {s : State} (h : precondition reservedClear s ≠ .none) :
    checkStep reservedClear s = reject (precondition reservedClear s) s := by
  rcases checkStep_cases reservedClear s with ⟨hpre, -⟩ | ⟨c, -, rfl, e⟩
  · exact absurd hpre h
  · exact e

/-- RUN lasts until the operation's last micro-step (R28). -/
theorem tick_run {s t : State} (hrst : s.rst = false) (hphase : s.phase = .run) (h : tick s = .next t) :
    t.phase = if s.tx = none ∧ s.pos ∈ [Pos.cvEnd, .flEnd, .clEnd, .blEnd, .teEnd] then .done else .run := by
  obtain ⟨hcfg, hmicro⟩ := tick_busy_cases hrst (by rw [hphase]; decide) h
  by_cases htx : s.tx = none
  · have hrun : Running s := ⟨hrst, hcfg, hphase, htx⟩
    rw [hrun.tick] at h
    simp only [runStep_phase h, htx, hphase, true_and]
  · rcases micro_cases hmicro with ⟨hp, -⟩ | ⟨-, -, rfl⟩ | ⟨-, hnone, -⟩ | ⟨hp, -⟩
    · exact absurd (hphase.symm.trans hp) (by decide)
    · obtain ⟨-, -, -, hkept, -⟩ := txCall_fixed s
      rw [hkept, hphase, if_neg fun hc => htx hc.1]
    · exact absurd hnone htx
    · exact absurd (hphase.symm.trans hp) (by decide)

/-- Settles O38: phase by phase, what a tick does there. -/
theorem phasesAdvanceInOrder : Obligations.PhasesAdvanceInOrder := by
  intro s t hrst h
  refine ⟨fun hidle => ⟨fun w buf rest hinbox => ?_, fun hinbox => tick_idle hrst hidle hinbox h⟩, fun hcheck => ?_,
    fun hrun => ?_, fun hdone => ?_⟩
  · rw [tick_takes hrst hidle hinbox h]
    exact ⟨rfl, rfl, rfl, rfl, rfl⟩
  · obtain ⟨-, hmicro⟩ := tick_busy_cases hrst (by rw [hcheck]; decide) h
    obtain ⟨reservedClear, hpos, rfl⟩ := micro_check hcheck hmicro
    refine ⟨reservedClear, hpos, fun hpass => ?_, fun hfail => ?_⟩
    · rw [checkStep_none hpass]
      exact ⟨rfl, rfl⟩
    · rw [checkStep_reject hfail]
      exact ⟨rfl, rfl, rfl⟩
  · have hphase := tick_run hrst hrun h
    split_ifs at hphase ⊢ <;> exact hphase
  · obtain ⟨-, hmicro⟩ := tick_busy_cases hrst (by rw [hdone]; decide) h
    rw [micro_done hdone hmicro]
    exact ⟨rfl, rfl⟩

/-! ## No fault -/

theorem oneFrame_ne_fault {s : State} (htx : s.tx = none) (payload : List Byte) (f : Fault) :
    oneFrame payload s ≠ .fault f := by
  simp [oneFrame, htx]

/-- With no transaction open no instruction faults (60_exceptions.md R224). -/
theorem exec_ne_fault {s : State} (htx : s.tx = none) (i : Instr) (f : Fault) : exec i s ≠ .fault f := by
  cases i with
  | fa p x => exact oneFrame_ne_fault htx _ f
  | fc p => exact oneFrame_ne_fault htx _ f
  | fd bytes =>
    show execFD bytes s ≠ .fault f
    unfold execFD
    split
    · exact oneFrame_ne_fault htx _ f
    · nofun
  | convert | flush | clear | blit | text => nofun
  | setColLow | setColHigh | setPage | ctrlCmdStream | ctrlCmdSingle | ctrlDataStream | copyBit => nofun

/-- Fetching opens no transaction. -/
theorem fetch_tx {s t : State} {x : Encoded} (h : fetch s = .item x t) : t.tx = s.tx := by
  unfold fetch at h
  split at h
  · cases h
  · cases h; rfl
  · cases h; rfl
  · split at h <;> cases h <;> rfl
  · cases h; rfl

theorem idleStep_ne_fault {s : State} (htx : s.tx = none) (f : Fault) : idleStep s ≠ .fault f := by
  unfold idleStep
  split
  · nofun
  · nofun
  · rename_i x t hfetch
    split
    · exact exec_ne_fault ((fetch_tx hfetch).trans htx) _ f
    · cases x <;> nofun

/-- A busy block whose phase and position agree has a next micro-step. -/
theorem micro_next {s : State} (h : s.positioned = true) (hbusy : s.phase ≠ .idle) : ∃ t, micro s = .next t := by
  unfold micro
  cases hphase : s.phase with
  | idle => exact absurd hphase hbusy
  | check =>
    obtain ⟨hpos, -⟩ := (positioned_check hphase).mp h
    cases hp : s.pos with
    | checking reservedClear => exact ⟨_, rfl⟩
    | _ => simp [hp, Pos.isChecking] at hpos
  | run =>
    have hpos := (positioned_run hphase).mp h
    cases htx : s.tx with
    | some o => exact ⟨_, rfl⟩
    | none => exact runStep_next (by simp [hpos])
  | done =>
    obtain ⟨hpos, -⟩ := (positioned_done hphase).mp h
    rw [hpos]
    exact ⟨_, rfl⟩

theorem step_ne_fault {s : State} (h : s.Inv) (f : Fault) : step s ≠ .fault f := by
  unfold step
  split_ifs with hcfg hrst hidle hshort
  · nofun
  · nofun
  · exact idleStep_ne_fault ((positioned_idle hidle).mp h.isPositioned).2 f
  · obtain ⟨t, ht⟩ := micro_next h.isPositioned hidle
    rw [ht]
    nofun
  · nofun

/-- Settles O44: an idle block has no transaction open, and a busy one stands at a micro-step. -/
theorem noFaultIsReached : Obligations.NoFaultIsReached := by
  intro s f h
  refine ⟨step_ne_fault h f, ?_⟩
  unfold tick
  split
  · split
    · nofun
    · exact step_ne_fault h f
  · exact step_ne_fault h f

/-! ## Who writes the Display Buffer -/

theorem Executed.db {i : Instr} {s t : State} (h : Executed s i t) : t.db = s.db ∨ ∃ o, i = .convert o ∨ i = .clear o := by
  cases h with
  | waits | rejected | frame | device | copied => exact .inl rfl
  | ran op o p run payloads hidle hsends hburst hwf hdb => exact hdb.imp_right fun hi => ⟨o, hi⟩

/-- Settles O46: by what an instruction can do. -/
theorem onlyConvertAndClearWriteTheBuffer : Obligations.OnlyConvertAndClearWriteTheBuffer :=
  fun _ _ _ h hne => (exec_executed h).db.resolve_left hne

end Sys2Proof.Machine
end

section
/-! No operand byte is retained (10_state.md R32): an operation run on two operand buffers leaves the block the same, but for
what CONVERT copies into the Display Buffer and for the newlines a TEXT has counted. -/

namespace Sys2Proof.Machine

/-! ## Two runs on two operand buffers -/

/-- The answers to come do not depend on the operand buffer. -/
theorem statuses_opb (s : State) (buf : List Byte) (n : Nat) :
    ({ s with opb := buf } : State).statuses n = s.statuses n := rfl

/-- Two runs of an operation that make as many transactions leave the same latch and results and report the same. -/
theorem Ended.reports_same {op : BitVec 3} {o : Operands} {ps qs : List (List Byte)} {s t u : State} {buf : List Byte}
    (h : Ended op o ps s t) (g : Ended op o qs { s with opb := buf } u) (hl : qs.length = ps.length) :
    u.latch = t.latch ∧ u.res = t.res ∧ u.phase = t.phase ∧ u.rsp = t.rsp := by
  have hres : u.res = t.res := by rw [g.result, h.result, hl, statuses_opb]
  refine ⟨g.latch.trans h.latch.symm, hres, g.idle.1.trans h.idle.1.symm, ?_⟩
  rw [g.events, h.events, hres, hl]
  rfl

/-- An operation that passes its check on an idle block runs to its completion event. -/
theorem operation_ran {op : BitVec 3} {o : Operands} {check : State → Cause} {p : Pos} {run : State → State} {s t : State}
    (hidle : s.phase = .idle) (hcheck : check (accept op o true s) = .none)
    (h : operation op o check p run s = .next t) : t = deliverDone (finish (run (s.started op o p))) := by
  rcases operation_cases h with ⟨hbusy, -⟩ | ⟨-, c, hc, hrej, -⟩ | ⟨-, -, ht⟩
  · exact absurd hidle hbusy
  · exact absurd (hrej.symm.trans hcheck) hc
  · exact ht

/-! ## CONVERT -/

/-- A CONVERT of 1024 bytes runs (40_remap.md R134). -/
theorem execConvert_ran {o : Operands} {s t : State} (hidle : s.phase = .idle) (hlen : o.len = 1024#16)
    (h : exec (.convert o) s = .next t) : t = deliverDone (finish (runConvert (s.started 0#3 o .cvInit))) :=
  operation_ran (check := convertCheck) hidle (convertCheck_none.mpr hlen) h

theorem convert_sameButBuffers {o : Operands} {s t u : State} {buf : List Byte} (hidle : s.phase = .idle)
    (hlen : o.len = 1024#16) (ht : exec (.convert o) s = .next t)
    (hu : exec (.convert o) { s with opb := buf } = .next u) : u = { t with db := u.db, opb := buf } ∧ t.burst = [] := by
  have hopb : u.opb = buf := (exec_executed hu).host.2.2
  have hsame : SameButBuffers t u := by
    rw [execConvert_ran hidle hlen ht, execConvert_ran (s := { s with opb := buf }) hidle hlen hu]
    have hstart : SameButSource (s.started 0#3 o .cvInit) (State.started { s with opb := buf } 0#3 o .cvInit) := rfl
    exact (runConvert_sameButBuffers hstart).ended
  refine ⟨hopb ▸ hsame, ?_⟩
  obtain ⟨-, -, hburst⟩ := runConvert_rest (s.started 0#3 o .cvInit)
  rw [execConvert_ran hidle hlen ht, deliverDone_burst, finish_burst, hburst, start_burst, accept_burst]

/-! ## BLIT -/

/-- What a BLIT leaves in the block: the reader, the remap unit and the buffer as they were, `cidx` at the width. -/
theorem execBlit_ran {o : Operands} {s t : State} (hidle : s.phase = .idle)
    (hcheck : blitCheck (accept 3#3 o true s) = .none) (h : exec (.blit o) s = .next t) :
    Ended 3#3 o (s.blitTrace o) s t ∧ t.db = s.db ∧ t.rmp = s.rmp ∧ t.rdr = s.rdr ∧
      t.seq = { s.seq with cidx := o.width.setWidth 16 } := by
  obtain ⟨hdb, hrdr, hrmp, hseq, hburst⟩ := runBlit_rest (s.started 3#3 o .blInit)
  obtain ⟨-, hended⟩ := completed_ended hcheck rfl (runBlit_sends (s.started 3#3 o .blInit)) hburst
  rw [operation_ran hidle hcheck h]
  generalize runBlit (s.started 3#3 o .blInit) = r at *
  exact ⟨hended, hdb, hrmp, hrdr, hseq⟩

theorem blit_keeps_no_operand {o : Operands} {s t u : State} {buf : List Byte} (hidle : s.phase = .idle)
    (ht : exec (.blit o) s = .next t) (hu : exec (.blit o) { s with opb := buf } = .next u) :
    u.db = t.db ∧ u.rmp = t.rmp ∧ u.rdr = t.rdr ∧ u.seq = t.seq ∧ u.latch = t.latch ∧ u.res = t.res ∧
      u.phase = t.phase ∧ u.rsp = t.rsp ∧ t.burst = [] := by
  by_cases hcheck : blitCheck (accept 3#3 o true s) = .none
  · obtain ⟨h, hdb, hrmp, hrdr, hseq⟩ := execBlit_ran hidle hcheck ht
    obtain ⟨g, gdb, grmp, grdr, gseq⟩ := execBlit_ran (s := { s with opb := buf }) hidle hcheck hu
    obtain ⟨hlatch, hres, hphase, hrsp⟩ := h.reports_same g rfl
    exact ⟨gdb.trans hdb.symm, grmp.trans hrmp.symm, grdr.trans hrdr.symm, gseq.trans hseq.symm, hlatch, hres, hphase,
      hrsp, h.records.2⟩
  · have ht' := (operation_rejected hidle rfl hcheck).symm.trans ht
    have hu' := (operation_rejected (s := { s with opb := buf }) hidle rfl hcheck).symm.trans hu
    cases ht'
    cases hu'
    exact ⟨rfl, rfl, rfl, rfl, rfl, rfl, rfl, rfl, rfl⟩

/-! ## TEXT -/

@[simp] theorem length_textTrace (s : State) (n : Nat) : (s.textTrace n).length = n + 1 := by simp [State.textTrace]

theorem TextAt.seq {n : Nat} {s t : State} (h : TextAt n s t) :
    t.seq = ⟨BitVec.ofNat 3 (s.newlines n), BitVec.ofNat 16 n, 0#3⟩ := by
  rw [← h.page, ← h.cidx, ← h.gidx]

/-- What a TEXT of at most 7 newlines leaves in the block: the cursor on the page its newlines give. -/
theorem execText_ran {o : Operands} {s t : State} (hidle : s.phase = .idle) (hnl : s.newlines o.len.toNat ≤ 7)
    (h : exec (.text o) s = .next t) :
    Ended 4#3 o (s.textTrace o.len.toNat) s t ∧ t.db = s.db ∧ t.rmp = s.rmp ∧ t.rdr = s.rdr ∧
      t.seq = ⟨BitVec.ofNat 3 (s.newlines o.len.toNat), BitVec.ofNat 16 o.len.toNat, 0#3⟩ := by
  have hcheck : textCheck (accept 4#3 o true s) = .none := if_neg (Nat.not_lt.mpr hnl)
  have hspec := runText_spec (s.started 4#3 o .teInit)
  obtain ⟨hdb, hrdr, hrmp⟩ := hspec.rest
  obtain ⟨-, hended⟩ := completed_ended hcheck rfl hspec.sends hspec.burst
  rw [operation_ran hidle hcheck h]
  exact ⟨hended, hdb, hrmp, hrdr, hspec.seq⟩

theorem text_keeps_no_operand {o : Operands} {s t u : State} {buf : List Byte} (hidle : s.phase = .idle)
    (hs : s.newlines o.len.toNat ≤ 7) (hb : ({ s with opb := buf } : State).newlines o.len.toNat ≤ 7)
    (ht : exec (.text o) s = .next t) (hu : exec (.text o) { s with opb := buf } = .next u) :
    u.db = t.db ∧ u.rmp = t.rmp ∧ u.rdr = t.rdr ∧ u.seq = { t.seq with curPage := u.seq.curPage } ∧
      u.latch = t.latch ∧ u.res = t.res ∧ u.phase = t.phase ∧ u.rsp = t.rsp ∧ t.burst = [] ∧
      (({ s with opb := buf } : State).newlines o.len.toNat = s.newlines o.len.toNat → u.seq = t.seq) := by
  obtain ⟨h, hdb, hrmp, hrdr, hseq⟩ := execText_ran hidle hs ht
  obtain ⟨g, gdb, grmp, grdr, gseq⟩ := execText_ran (s := { s with opb := buf }) hidle hb hu
  obtain ⟨hlatch, hres, hphase, hrsp⟩ := h.reports_same g (by simp)
  exact ⟨gdb.trans hdb.symm, grmp.trans hrmp.symm, grdr.trans hrdr.symm, by rw [gseq, hseq], hlatch, hres, hphase, hrsp,
    h.records.2, fun e => by rw [gseq, hseq, e]⟩

/-- Settles O51: operation by operation. -/
theorem noOperandByteIsRetained : Obligations.NoOperandByteIsRetained :=
  fun _ _ _ _ _ hidle => ⟨convert_sameButBuffers hidle, blit_keeps_no_operand hidle, text_keeps_no_operand hidle⟩

end Sys2Proof.Machine
end


section
/-! The device commands (20_memory.md R61, 41_sequencer.md R150 to R152): which part of the device each sets, and that taking a
command changes the receiver's position alone. -/

namespace Sys2Proof.Machine

namespace Device

/-! ## Taking a command (30_encoding.md R97) -/

@[simp] theorem commandTaken_col (d : Device) : d.commandTaken.col = d.col := by
  unfold commandTaken
  split <;> rfl

@[simp] theorem commandTaken_page (d : Device) : d.commandTaken.page = d.page := by
  unfold commandTaken
  split <;> rfl

theorem commandTaken_rx (d : Device) : d.commandTaken.rx = if d.rx = .oneCommand then .control else d.rx := by
  unfold commandTaken
  split <;> rfl

/-! ## The column's two nibbles -/

section
variable (n : BitVec 4) (d : Device)

@[simp] theorem setColLow_low : (d.setColLow n).col.extractLsb' 0 4 = n := BitVec.extractLsb'_append_eq_right

@[simp] theorem setColLow_high : (d.setColLow n).col.extractLsb' 4 3 = d.col.extractLsb' 4 3 :=
  BitVec.extractLsb'_append_eq_left

@[simp] theorem setColHigh_low : (d.setColHigh n).col.extractLsb' 0 4 = d.col.extractLsb' 0 4 :=
  BitVec.extractLsb'_append_eq_right

@[simp] theorem setColHigh_high : (d.setColHigh n).col.extractLsb' 4 3 = n.extractLsb' 0 3 :=
  BitVec.extractLsb'_append_eq_left

end

end Device

/-- Settles O16: each command sets its part of the device, and taking it moves the receiver alone. -/
theorem deviceCommands : Obligations.DeviceCommands :=
  ⟨fun n s => ⟨(s.dev.setColLow n).commandTaken, rfl, by simp, by simp, Device.commandTaken_page _,
      gd_commandTaken_eq _, Device.commandTaken_rx _⟩,
    fun n s => ⟨(s.dev.setColHigh n).commandTaken, rfl, by simp, by simp, Device.commandTaken_page _,
      gd_commandTaken_eq _, Device.commandTaken_rx _⟩,
    fun p s => ⟨(s.dev.setPage p).commandTaken, rfl, Device.commandTaken_page _, Device.commandTaken_col _,
      gd_commandTaken_eq _, Device.commandTaken_rx _⟩⟩

end Sys2Proof.Machine
end

section
/-! The decoder and the encoder are inverse to each other (30_encoding.md R90 to R103): under a configuration that meets
R7, an encoding decodes to an instruction exactly when the instruction is well formed and has that encoding. Each form of
encoding has its own `iff`. -/

namespace Sys2Proof

/-! ## Command words -/

theorem CommandWord.reservedClear_iff {w : CommandWord} : w.reservedClear = true ↔ w.rsv0 = 0#5 ∧ w.rsv1 = 0#16 := by
  simp [CommandWord.reservedClear]

/-- The seven fields of a word are all of its bits (R90). -/
theorem CommandWord.fields_append (w : CommandWord) :
    w.rsv1 ++ w.operands.len ++ w.operands.width ++ w.operands.seg ++ w.operands.page ++ w.rsv0 ++ w.op = w := by
  simp only [CommandWord.rsv1, CommandWord.operands, CommandWord.rsv0, CommandWord.op,
    BitVec.extractLsb'_append_extractLsb'_eq_extractLsb']
  exact BitVec.extractLsb'_eq_self

/-- A word whose reserved bits are 0 is made of its operation code and its operands (R90). -/
theorem CommandWord.make_op_operands {w : CommandWord} (h : w.reservedClear = true) :
    CommandWord.make w.op w.operands = w := by
  obtain ⟨h0, h1⟩ := CommandWord.reservedClear_iff.mp h
  rw [CommandWord.make, ← h0, ← h1, CommandWord.fields_append]

theorem decodeWord_iff (c : Config) {w : CommandWord} {i : Instr} :
    decodeWord w = .instr i ↔ encode c i = .word w := by
  constructor
  · intro h
    obtain ⟨hr, hi⟩ := Machine.decodeWord_instr h
    have hw := CommandWord.make_op_operands hr
    rcases hi with ⟨hop, rfl⟩ | ⟨hop, rfl⟩ | ⟨hop, rfl⟩ | ⟨hop, rfl⟩ | ⟨hop, rfl⟩ <;> rw [hop] at hw <;>
      exact congrArg Encoded.word hw
  · intro h
    cases i with
    | convert | flush | clear | blit | text =>
      cases h
      simp [decodeWord]
    | _ => cases h

/-! ## Bytes -/

theorem page_or_base : ∀ b : Byte, (b &&& 0xF8#8) ||| (b.extractLsb' 0 3).setWidth 8 = b := by decide +kernel

/-- What a byte that decodes as a command is (R101). -/
theorem decodeCommand_eq {c : Config} {b : Byte} {i : Instr} (h : decodeCommand c b = .instr i) :
    encode c i = .command b := by
  unfold decodeCommand at h
  split_ifs at h with hl hh hp <;> cases h <;> refine congrArg Encoded.command ?_
  · rw [← hl, nibbles_or]
  · rw [← hh, nibbles_or]
  · rw [← hp, page_or_base]

theorem decodeControl_eq {c : Config} {b : Byte} {i : Instr} (h : decodeControl c b = .instr i) :
    encode c i = .control b := by
  unfold decodeControl at h
  split_ifs at h with h1 h2 h3 <;> cases h <;> subst b <;> rfl

section
variable {c : Config} (hc : c.wf = true)
include hc

theorem decodeCommand_iff {b : Byte} {i : Instr} : decodeCommand c b = .instr i ↔ encode c i = .command b := by
  refine ⟨decodeCommand_eq, fun h => ?_⟩
  cases i with
  | setColLow n => cases h; exact decodeCommand_low hc n
  | setColHigh n => cases h; exact decodeCommand_high hc n
  | setPage p => cases h; exact decodeCommand_page hc p
  | _ => cases h

theorem decodeControl_iff {b : Byte} {i : Instr} : decodeControl c b = .instr i ↔ encode c i = .control b := by
  refine ⟨decodeControl_eq, fun h => ?_⟩
  cases i with
  | ctrlCmdStream => cases h; exact decodeControl_stream
  | ctrlCmdSingle => cases h; exact decodeControl_single hc
  | ctrlDataStream => cases h; exact decodeControl_data hc
  | _ => cases h

end

/-! ## Payloads -/

/-- The lengths of a data burst (R99). -/
theorem Instr.fd_wf_iff {bytes : List Byte} : (Instr.fd bytes).wf = true ↔ 1 ≤ bytes.length ∧ bytes.length ≤ 128 := by
  simp [Instr.wf]

/-- A high nibble of at most 7 is three bits behind a 0 (R102). -/
theorem nibble_of_top_clear : ∀ h : BitVec 4, h.getLsbD 3 = false → (0#1 ++ h.extractLsb' 0 3 : BitVec 4) = h := by
  decide

/-- The addressing sequence whose column bytes carry the nibbles `h` and `l` (R98, R102). -/
theorem frameFA_of_nibbles (c : Config) (p : PageIdx) {h l : BitVec 4} (htop : h.getLsbD 3 = false) :
    frameFA c (p.setWidth 8) ((h.extractLsb' 0 3 ++ l : SegIdx).setWidth 8) =
      [c.ctrlCmdStream, c.colLowBase ||| l.setWidth 8, c.colHighBase ||| h.setWidth 8,
        c.pageSelBase ||| p.setWidth 8] := by
  have hlow : (h.extractLsb' 0 3 ++ l : SegIdx).extractLsb' 0 4 = l := BitVec.extractLsb'_append_eq_right
  have hhigh : (h.extractLsb' 0 3 ++ l : SegIdx).extractLsb' 4 3 = h.extractLsb' 0 3 :=
    BitVec.extractLsb'_append_eq_left
  rw [frameFA, colLowByte, colHighByte, pageByte, segment_low, segment_high, hlow, hhigh, nibble_of_top_clear h htop]

theorem decodeFA_eq {c : Config} {bytes : List Byte} {i : Instr} (h : decodeFA c bytes = some i) :
    ∃ p x, i = .fa p x ∧ bytes = frameFA c (p.setWidth 8) (x.setWidth 8) := by
  unfold decodeFA at h
  split at h
  · rename_i b0 b1 b2 b3
    split at h
    · rename_i h0
      split at h
      · rename_i l n p h1 h2 h3
        split at h
        · cases h
        · rename_i htop
          cases h
          refine ⟨p, _, rfl, ?_⟩
          rw [frameFA_of_nibbles c p (by simpa using htop), h0, Encoded.command.inj (decodeCommand_eq h1),
            Encoded.command.inj (decodeCommand_eq h2), Encoded.command.inj (decodeCommand_eq h3)]
      · cases h
    · cases h
  · cases h

theorem decodeFD_eq {c : Config} {bytes : List Byte} {i : Instr} (h : decodeFD c bytes = some i) :
    i.wf = true ∧ encode c i = .payload bytes := by
  unfold decodeFD at h
  split at h
  · rename_i b0 rest
    split at h
    · rename_i hb
      obtain ⟨rfl, hwf⟩ := hb
      cases h
      exact ⟨hwf, rfl⟩
    · cases h
  · cases h

theorem decodeFC_eq {c : Config} {bytes : List Byte} {i : Instr} (h : decodeFC c bytes = some i) :
    ∃ p, i = .fc p ∧ bytes = frameFC c (p.setWidth 8) := by
  unfold decodeFC at h
  split at h
  · rename_i b0 b1 b2 rest
    split at h
    · rename_i hb
      obtain ⟨rfl, rfl, rfl⟩ := hb
      split at h
      · rename_i p h1
        cases h
        refine ⟨p, rfl, ?_⟩
        rw [← Encoded.command.inj (decodeCommand_eq h1)]
        rfl
      · cases h
    · cases h
  · cases h

/-- What a payload that decodes is (R98 to R100). -/
theorem decodePayload_eq {c : Config} {bytes : List Byte} {i : Instr} (h : decodePayload c bytes = .instr i) :
    i.wf = true ∧ encode c i = .payload bytes := by
  unfold decodePayload at h
  split at h
  · rename_i hfa
    cases h
    obtain ⟨p, x, rfl, rfl⟩ := decodeFA_eq hfa
    exact ⟨rfl, rfl⟩
  · rename_i hfd
    cases h
    exact decodeFD_eq hfd
  · rename_i hfc
    cases h
    obtain ⟨p, rfl, rfl⟩ := decodeFC_eq hfc
    exact ⟨rfl, rfl⟩
  · cases h

/-- A payload that does not begin with the control byte of a command stream is no addressing sequence (R98). -/
theorem decodeFA_none {c : Config} {b : Byte} {rest : List Byte} (h : b ≠ c.ctrlCmdStream) :
    decodeFA c (b :: rest) = none := by
  unfold decodeFA
  split <;> simp_all

/-- One that does not begin with the control byte of a data stream is no data-stream write (R99). -/
theorem decodeFD_none {c : Config} {b : Byte} {rest : List Byte} (h : b ≠ c.ctrlDataStream) :
    decodeFD c (b :: rest) = none := by
  simp [decodeFD, h]

section
variable {c : Config} (hc : c.wf = true)
include hc

theorem decodeFA_frameFA (p : PageIdx) (x : SegIdx) :
    decodeFA c (frameFA c (p.setWidth 8) (x.setWidth 8)) = some (.fa p x) := by
  have htop : (0#1 ++ x.extractLsb' 4 3 : BitVec 4).getLsbD 3 = false := by rw [BitVec.getLsbD_append]; rfl
  have hnibble : (0#1 ++ x.extractLsb' 4 3 : BitVec 4).extractLsb' 0 3 = x.extractLsb' 4 3 :=
    BitVec.extractLsb'_append_eq_right
  simp only [frameFA, decodeFA, decodeCommand_colLowByte hc, decodeCommand_colHighByte hc, decodeCommand_pageByte hc,
    htop, hnibble, segment_join, if_true, Bool.false_eq_true, if_false]

theorem decodeFC_frameFC (p : PageIdx) : decodeFC c (frameFC c (p.setWidth 8)) = some (.fc p) := by
  simp [frameFC, decodeFC, decodeCommand_pageByte hc]

theorem decodePayload_iff {bytes : List Byte} {i : Instr} :
    decodePayload c bytes = .instr i ↔ i.wf = true ∧ encode c i = .payload bytes := by
  obtain ⟨hstream, hdata, hsingle, -⟩ := Config.wf_parts hc
  refine ⟨decodePayload_eq, fun ⟨hwf, h⟩ => ?_⟩
  cases i with
  | fa p x =>
    cases h
    rw [decodePayload, decodeFA_frameFA hc]
  | fd rest =>
    cases h
    rw [decodePayload, frameFD, decodeFA_none (Ne.symm hdata)]
    simp [decodeFD, hwf]
  | fc p =>
    cases h
    have hfa : decodeFA c (frameFC c (p.setWidth 8)) = none := decodeFA_none (Ne.symm hstream)
    have hfd : decodeFD c (frameFC c (p.setWidth 8)) = none := decodeFD_none hsingle
    rw [decodePayload, hfa, hfd, decodeFC_frameFC hc]
  | _ => cases h

/-! ## Every encoding -/

omit hc in
/-- Only a frame can be ill formed (R99). -/
theorem encode_iff_wf {x : Encoded} {i : Instr} (hx : ∀ bytes, x ≠ .payload bytes) :
    encode c i = x ↔ i.wf = true ∧ encode c i = x := by
  refine ⟨fun h => ⟨?_, h⟩, And.right⟩
  cases i with
  | fd bytes => exact absurd h.symm (hx _)
  | _ => rfl

/-- The decoder inverts the encoder, and nothing else decodes. -/
theorem decode_iff {x : Encoded} {i : Instr} : decode c x = .instr i ↔ i.wf = true ∧ encode c i = x := by
  cases x with
  | word w => exact (decodeWord_iff c).trans (encode_iff_wf (by simp))
  | payload bytes => exact decodePayload_iff hc
  | control b => exact (decodeControl_iff hc).trans (encode_iff_wf (by simp))
  | command b => exact (decodeCommand_iff hc).trans (encode_iff_wf (by simp))
  | bitCopy src srcBit dst dstBit =>
    constructor
    · intro h
      cases h
      exact ⟨rfl, rfl⟩
    · rintro ⟨-, h⟩
      cases i with
      | copyBit => cases h; rfl
      | _ => cases h

end

/-- Settles O1: an instruction has its own encoding, so that is what it decodes from. -/
theorem decodeInvertsEncode : Obligations.DecodeInvertsEncode :=
  fun _ _ hc hwf => (decode_iff hc).mpr ⟨hwf, rfl⟩

/-- Settles O2: nothing decodes but encodings of well-formed instructions. -/
theorem encodeInvertsDecode : Obligations.EncodeInvertsDecode :=
  fun _ _ _ hc h => (decode_iff hc).mp h

end Sys2Proof
end

section
/-! The payloads of the operations (30_encoding.md R105): each is a frame, that is, it decodes to a well-formed FA, FD or
FC. -/

namespace Sys2Proof

/-- A payload that decodes to a well-formed instruction. -/
def IsFrame (c : Config) (payload : List Byte) : Prop := ∃ j, decode c (.payload payload) = .instr j ∧ j.wf = true

section
variable {c : Config} (hc : c.wf = true)
include hc

theorem isFrame_encode {i : Instr} {payload : List Byte} (hwf : i.wf = true) (h : encode c i = .payload payload) :
    IsFrame c payload :=
  ⟨i, (decode_iff hc).mpr ⟨hwf, h⟩, hwf⟩

theorem isFrame_addrPayload (p : PageIdx) (x : SegIdx) : IsFrame c (Machine.addrPayload c p x) :=
  isFrame_encode hc (i := .fa p x) rfl rfl

theorem isFrame_clearPayload (p : PageIdx) : IsFrame c (Machine.clearPayload c p) :=
  isFrame_encode hc (i := .fc p) rfl rfl

theorem isFrame_frameFD {bytes : List Byte} (hpos : 1 ≤ bytes.length) (hle : bytes.length ≤ 128) :
    IsFrame c (frameFD c bytes) :=
  isFrame_encode hc (i := .fd bytes) (Instr.fd_wf_iff.mpr ⟨hpos, hle⟩) rfl

/-- A page and a segment of 8 bits that are in range address as those of 3 and 7 bits do (R102, R103). -/
theorem isFrame_frameFA {p x : Byte} (hp : p.toNat ≤ 7) (hx : x.toNat ≤ 127) : IsFrame c (frameFA c p x) := by
  have hp' : (p.setWidth 3).setWidth 8 = p := BitVec.setWidth_setWidth_eq_self (by simp [BitVec.lt_def]; omega)
  have hx' : (x.setWidth 7).setWidth 8 = x := BitVec.setWidth_setWidth_eq_self (by simp [BitVec.lt_def]; omega)
  have h := isFrame_addrPayload hc (p.setWidth 3) (x.setWidth 7)
  rwa [Machine.addrPayload, hp', hx'] at h

end

namespace Machine

section
variable {s : State} (hc : s.cfg.wf = true)
include hc

/-! ## The trace of each operation -/

theorem isFrame_flushTrace : ∀ payload ∈ s.flushTrace, IsFrame s.cfg payload := by
  intro payload h
  obtain ⟨p, -, h⟩ := List.mem_flatMap.mp h
  rcases List.mem_pair.mp h with rfl | rfl
  · exact isFrame_addrPayload hc _ _
  · exact isFrame_frameFD hc (by simp) (by simp)

theorem isFrame_clearTrace : ∀ payload ∈ clearTrace s.cfg, IsFrame s.cfg payload := by
  intro payload h
  obtain ⟨p, -, rfl⟩ := List.mem_map.mp h
  exact isFrame_clearPayload hc _

theorem isFrame_charPayload (i : Nat) : IsFrame s.cfg (s.charPayload i) := by
  unfold State.charPayload
  split
  · exact isFrame_addrPayload hc _ _
  · exact isFrame_frameFD hc (by simp [glyphBytes]) (by simp [glyphBytes])

theorem isFrame_textTrace (n : Nat) : ∀ payload ∈ s.textTrace n, IsFrame s.cfg payload := by
  intro payload h
  rcases List.mem_cons.mp h with rfl | h
  · exact isFrame_addrPayload hc _ _
  · obtain ⟨i, -, rfl⟩ := List.mem_map.mp h
    exact isFrame_charPayload hc i

/-- A blit that passes its checks sends frames (42_reader_flush_blit.md R178). -/
theorem isFrame_blitTrace {o : Operands} (hcheck : blitCheck (accept 3#3 o true s) = .none) :
    ∀ payload ∈ s.blitTrace o, IsFrame s.cfg payload := by
  obtain ⟨hpage, hseg, hpos, hend, -⟩ : o.page.toNat ≤ 7 ∧ o.seg.toNat ≤ 127 ∧ 1 ≤ o.width.toNat ∧
    o.seg.toNat + o.width.toNat ≤ 128 ∧ o.width.toNat ≤ o.len.toNat := blitCheck_none.mp hcheck
  intro payload h
  rcases List.mem_pair.mp h with rfl | rfl
  · exact isFrame_frameFA hc hpage hseg
  · exact isFrame_frameFD hc (by simpa using hpos) (by rw [List.length_map, List.length_range]; omega)

end

/-! ## What an operation emits -/

/-- The trace of an operation that has a next state on an idle block is empty, if it was rejected, or what its run sent. -/
theorem operation_trace {op : BitVec 3} {o : Operands} {check : State → Cause} {p : Pos} {run : State → State}
    {payloads : List (List Byte)} {s t : State} (hidle : s.phase = .idle)
    (hsends : Sends payloads (s.started op o p) (run (s.started op o p)))
    (h : operation op o check p run s = .next t) :
    t.tr = [] ∨ check (accept op o true s) = .none ∧ t.tr = payloads := by
  rcases operation_cases h with ⟨hbusy, -⟩ | ⟨-, c, -, -, rfl⟩ | ⟨-, hcheck, rfl⟩
  · exact absurd hidle hbusy
  · exact .inl rfl
  · exact .inr ⟨hcheck, hsends.trace⟩

/-- So an operation whose run sends frames, where its check passes, emits nothing else. -/
theorem operation_emits {op : BitVec 3} {o : Operands} {check : State → Cause} {p : Pos} {run : State → State}
    {payloads : List (List Byte)} {s t : State} (hidle : s.phase = .idle)
    (hsends : Sends payloads (s.started op o p) (run (s.started op o p)))
    (hframes : check (accept op o true s) = .none → ∀ payload ∈ payloads, IsFrame s.cfg payload)
    (h : operation op o check p run s = .next t) : ∀ payload ∈ t.tr, IsFrame s.cfg payload := by
  rcases operation_trace hidle hsends h with htr | ⟨hcheck, htr⟩
  · simp [htr]
  · rw [htr]
    exact hframes hcheck

/-- Settles O48: operation by operation, by what its run sends. -/
theorem onlyFramesAreEmitted : Obligations.OnlyFramesAreEmitted := by
  intro o i s t hc hidle hi h
  rcases hi with rfl | rfl | rfl | rfl | rfl
  · exact operation_emits (check := convertCheck) hidle (runConvert_sends _) (fun _ => by simp) h
  · exact operation_emits (check := flushCheck) hidle (runFlush_sends _) (fun _ => isFrame_flushTrace hc) h
  · exact operation_emits (check := clearCheck) hidle (runClear_sends _) (fun _ => isFrame_clearTrace hc) h
  · exact operation_emits (check := blitCheck) hidle (runBlit_sends _) (isFrame_blitTrace hc) h
  · exact operation_emits (check := textCheck) hidle (runText_spec _).sends (fun _ => isFrame_textTrace hc _) h

end Machine

end Sys2Proof
end

section
/-! Byte layouts (30_encoding.md R97 to R102, R107): the nibbles of a segment, the three payloads byte by byte, the control
bytes, and the lengths a data burst may have. -/

namespace Sys2Proof

/-! ## The nibbles of a segment, by trying every value -/

theorem segment_low_toNat : ∀ x : SegIdx, ((x.setWidth 8 : Byte) &&& 0x0F#8).toNat = x.toNat % 16 := by decide +kernel

theorem segment_high_toNat : ∀ x : SegIdx, (((x.setWidth 8 : Byte) >>> 4) &&& 0x0F#8).toNat = x.toNat / 16 := by
  decide +kernel

/-- Settles O5: the nibbles are the remainder and the quotient by 16, and under R7 (b) OR with a nibble is addition. -/
theorem segmentNibbles : Obligations.SegmentNibbles := by
  intro c x hc
  obtain ⟨-, -, -, hl, hh, -⟩ := Config.wf_parts hc
  have hlow := segment_low_toNat x
  have hhigh := segment_high_toNat x
  have hlt : x.toNat < 128 := x.isLt
  refine ⟨hlow, hhigh, by rw [hhigh]; omega, by rw [hlow, hhigh]; omega, rfl, ?_, rfl, ?_⟩
  · rw [colLowByte, segment_low]
    exact low_or_eq_add _ _ hl
  · rw [colHighByte, segment_high]
    exact low_or_eq_add _ _ hh

/-- Settles O6: the layouts are the encoder's, and the lengths are counted. -/
theorem frameLayouts : Obligations.FrameLayouts := by
  intro c p x bytes
  refine ⟨rfl, rfl, rfl, rfl, ?_, ?_⟩
  · rw [frameFD, List.length_cons, Nat.add_comm]
  · simp [Machine.clearPayload, frameFC]

namespace Machine

/-- Settles O17: each control byte is one update of the receiver's position. -/
theorem controlBytes : Obligations.ControlBytes := fun _ => ⟨rfl, rfl, rfl⟩

/-- Settles O22: a burst of another length is not well formed. -/
theorem burstLengthRefused : Obligations.BurstLengthRefused := by
  intro bytes s hlen
  have hill : ¬ (Instr.fd bytes).wf = true := by
    rw [Instr.fd_wf_iff]
    omega
  exact if_neg hill

end Machine

end Sys2Proof
end

section
/-! Taking a command word or a row of the opcode table (10_state.md R31, 30_encoding.md R93, R106): a reserved word is
rejected with `E_OP`, and the step after `withFetchWord` runs the instruction the decoder reads. -/

namespace Sys2Proof.Machine

/-! ## Reserved words (R93) -/

/-- A command word is an operation exactly when its code is one and its reserved bits are 0 (R91, R93). -/
theorem decodeWord_instr_iff {w : CommandWord} :
    (∃ i, decodeWord w = .instr i) ↔ w.op.toNat < 5 ∧ w.rsv0 = 0#5 ∧ w.rsv1 = 0#16 := by
  rw [← CommandWord.reservedClear_iff]
  constructor
  · rintro ⟨i, h⟩
    obtain ⟨hr, hi⟩ := decodeWord_instr h
    refine ⟨?_, hr⟩
    rcases hi with ⟨hop, -⟩ | ⟨hop, -⟩ | ⟨hop, -⟩ | ⟨hop, -⟩ | ⟨hop, -⟩ <;> rw [hop] <;> decide
  · rintro ⟨hop, hr⟩
    have hcodes : ∀ op : BitVec 3, op.toNat < 5 → op = 0#3 ∨ op = 1#3 ∨ op = 2#3 ∨ op = 3#3 ∨ op = 4#3 := by decide
    rcases hcodes _ hop with h | h | h | h | h <;> simp [decodeWord, hr, h]

/-- Only the operations read an operand buffer (20_memory.md R54). -/
theorem readsOperand_rejected {w : CommandWord} {e : DecodeError} (s : State) (h : decodeWord w = .rejected e) :
    readsOperand w s = false := by
  by_contra hr
  obtain ⟨hclear, hop⟩ := readsOperand_iff.mp (by simpa using hr)
  have hlt : w.op.toNat < 5 := by
    rcases hop with ⟨hop, -⟩ | ⟨hop, -⟩ | hop <;> rw [hop] <;> decide
  obtain ⟨i, hi⟩ := decodeWord_instr_iff.mpr ⟨hlt, CommandWord.reservedClear_iff.mp hclear⟩
  rw [hi] at h
  cases h

/-- An idle block takes a word that is no operation and rejects it, whatever its buffer (60_exceptions.md R212). -/
theorem step_rejectedWord {s : State} {w : CommandWord} {buf : List Byte} {rest : List Item} {e : DecodeError}
    (hrst : s.rst = false) (hcfg : s.cfg.wf = true) (hidle : s.phase = .idle) (hinbox : s.inbox = .cmd w buf :: rest)
    (hd : decodeWord w = .rejected e) :
    step s = .next (({ s with inbox := rest, opb := buf } : State).rejectedWith w.op w.operands .eOp) := by
  have hshort : s.shortOperand = false := by rw [shortOperand_cmd hinbox, readsOperand_rejected s hd, Bool.false_and]
  rw [step_idle hrst hcfg hidle hshort, idleStep_rejected (fetch_cmd hinbox) hd]
  rfl

/-- Settles O34: a reserved word does not decode, and every other word does. -/
theorem reservedWordsAreRejected : Obligations.ReservedWordsAreRejected := by
  refine ⟨fun s w buf rest hrst hcfg hidle hinbox hres => ?_, fun w hop h0 h1 => decodeWord_instr_iff.mpr ⟨hop, h0, h1⟩⟩
  cases hd : decodeWord w with
  | rejected e => exact step_rejectedWord hrst hcfg hidle hinbox hd
  | instr i =>
    obtain ⟨hop, h0, h1⟩ := decodeWord_instr_iff.mp ⟨i, hd⟩
    rcases hres with hge | hne | hne
    · omega
    · exact absurd h0 hne
    · exact absurd h1 hne

/-! ## Rows of the opcode table (R106) -/

/-- What is offered is what is fetched, with the operand buffer it was presented with. -/
theorem fetch_offering (s : State) (x : Encoded) :
    fetch (s.offering x) = .item x { s.offering x with inbox := s.inbox, opb := Encoded.buffer x s } := by
  cases x <;> rfl

/-- An idle block at rest, once it has taken what was offered, is as it was but for the receiver and the buffer. -/
theorem offering_taken {s : State} (hidle : s.phase = .idle) (hpos : s.pos = .rest) (htx : s.tx = none)
    (hrst : s.rst = false) (x : Encoded) :
    ({ s.offering x with inbox := s.inbox, opb := Encoded.buffer x s } : State) =
      { s with dev := { s.dev with rx := Encoded.rxMode x s }, opb := Encoded.buffer x s } := by
  cases s
  cases hidle
  cases hpos
  cases htx
  cases hrst
  rfl

/-- The step that takes an offered encoding runs the instruction it decodes to. -/
theorem step_offering {s : State} {x : Encoded} {i : Instr} (hcfg : s.cfg.wf = true) (hidle : s.phase = .idle)
    (hpos : s.pos = .rest) (htx : s.tx = none) (hrst : s.rst = false) (hd : decode s.cfg x = .instr i) :
    step (s.offering x) =
      exec i { s with dev := { s.dev with rx := Encoded.rxMode x s }, opb := Encoded.buffer x s } := by
  rw [step_idle (s := s.offering x) rfl hcfg rfl (offering_shortOperand s x), idleStep_instr (fetch_offering s x) hd,
    offering_taken hidle hpos htx hrst]

theorem decodeTableWord_iff {nbits w : Nat} {i : Instr} :
    decodeTableWord nbits w = some i ↔ decode Config.usual (tableEncoded nbits w) = .instr i := by
  unfold decodeTableWord
  split <;> simp [*]

/-- Only a row of 64 bits is a command word, so no other brings an operand buffer. -/
theorem buffer_tableEncoded {nbits : Nat} (h : nbits ≠ 64) (w : Nat) (s : State) :
    Encoded.buffer (tableEncoded nbits w) s = s.opb := by
  unfold tableEncoded
  split
  · rfl
  · split <;> rfl
  · exact absurd rfl h
  · rfl

/-- Only a row of 8 bits is a device byte, so no other moves the receiver. -/
theorem rxMode_tableEncoded {nbits : Nat} (h : nbits ≠ 8) (w : Nat) (s : State) :
    Encoded.rxMode (tableEncoded nbits w) s = s.dev.rx := by
  unfold tableEncoded
  split
  · rfl
  · exact absurd rfl h
  · rfl
  · rfl

/-- A control byte's encoding stands where a control byte does (R97). -/
theorem rxMode_encode_control (c : Config) {i : Instr} (s : State)
    (h : i = .ctrlCmdStream ∨ i = .ctrlCmdSingle ∨ i = .ctrlDataStream) :
    Encoded.rxMode (encode c i) s = .control := by
  rcases h with rfl | rfl | rfl <;> rfl

/-- A command's encoding stands among commands (20_memory.md R61). -/
theorem rxMode_encode_command (c : Config) {i : Instr} (s : State)
    (h : (∃ n, i = .setColLow n ∨ i = .setColHigh n) ∨ ∃ p, i = .setPage p) :
    Encoded.rxMode (encode c i) s = .commands := by
  rcases h with ⟨n, rfl | rfl⟩ | ⟨p, rfl⟩ <;> rfl

/-- Settles O36: the row's encoding is offered; where it stands is read off the instruction, whose encoding it is. -/
theorem withFetchWordRunsTheRow : Obligations.WithFetchWordRunsTheRow := by
  intro s nbits w i hcfg hidle hpos htx hrst htable
  have hd := decodeTableWord_iff.mp htable
  have hwf : Config.usual.wf = true := by decide
  obtain ⟨-, henc⟩ := (decode_iff hwf).mp hd
  refine ⟨step_offering (hcfg ▸ hwf) hidle hpos htx hrst (hcfg ▸ hd), buffer_opbByte _ s,
    fun h => buffer_tableEncoded h w s, fun h => ?_, fun h => ?_, fun h => rxMode_tableEncoded h w s⟩
  · rw [← henc]
    exact rxMode_encode_control _ s h
  · rw [← henc]
    exact rxMode_encode_command _ s h

end Sys2Proof.Machine
end

section
/-! The remap unit's pure functions (40_remap.md R130 to R133): COPY_BIT by the bits of its result, MAP by arithmetic. -/

namespace Sys2Proof.Machine

/-! ## COPY_BIT -/

/-- A byte is the result of a copy when its bits are. -/
theorem eq_copyBit {src dst v : Byte} {srcBit dstBit : BitVec 3}
    (h : ∀ i, i < 8 → v.getLsbD i = if i = dstBit.toNat then src.getLsbD srcBit.toNat else dst.getLsbD i) :
    v = copyBit src srcBit dst dstBit :=
  BitVec.eq_of_getLsbD_eq fun i hi => by rw [h i hi, copyBit_getLsbD _ _ _ _ hi]

theorem copyBit_getLsbD_same (src : Byte) (srcBit : BitVec 3) (dst : Byte) (dstBit : BitVec 3) :
    (copyBit src srcBit dst dstBit).getLsbD dstBit.toNat = src.getLsbD srcBit.toNat := by
  rw [copyBit_getLsbD _ _ _ _ dstBit.isLt, if_pos rfl]

theorem copyBit_getLsbD_other (src : Byte) (srcBit : BitVec 3) (dst : Byte) {dstBit : BitVec 3} {i : Nat} (hi : i < 8)
    (hne : i ≠ dstBit.toNat) : (copyBit src srcBit dst dstBit).getLsbD i = dst.getLsbD i := by
  rw [copyBit_getLsbD _ _ _ _ hi, if_neg hne]

/-- Where the two bits agree nothing changes. -/
theorem copyBit_of_bits_eq {src dst : Byte} {srcBit dstBit : BitVec 3}
    (h : dst.getLsbD dstBit.toNat = src.getLsbD srcBit.toNat) : copyBit src srcBit dst dstBit = dst := by
  refine (eq_copyBit fun i _ => ?_).symm
  split_ifs with hi
  · rw [hi, h]
  · rfl

/-- A copied bit is what the source had there, as a byte of one bit (R130). -/
theorem copyBit_eq_or_ofBool (src : Byte) (srcBit : BitVec 3) (dst : Byte) (dstBit : BitVec 3) :
    copyBit src srcBit dst dstBit = (dst &&& ~~~(1#8 <<< dstBit.toNat)) |||
      ((BitVec.ofBool (src.getLsbD srcBit.toNat)).setWidth 8 <<< dstBit.toNat) := by
  rw [copyBit, BitVec.and_one_eq_setWidth_ofBool_getLsbD, BitVec.getLsbD_ushiftRight, Nat.add_zero]

/-- Settles O7: by the bits of the result. -/
theorem copyBitCopiesOneBit : Obligations.CopyBitCopiesOneBit :=
  fun src dst srcBit dstBit _ => ⟨rfl, copyBit_eq_or_ofBool src srcBit dst dstBit,
    copyBit_getLsbD_same src srcBit dst dstBit, fun _ hi hne => copyBit_getLsbD_other src srcBit dst hi hne,
    copyBit_of_bits_eq, by decide⟩

/-! ## The laws of R131 -/

/-- Where the two bits differ the one bit changes. -/
theorem copyBit_of_bits_ne {src dst : Byte} {srcBit dstBit : BitVec 3}
    (h : src.getLsbD srcBit.toNat ≠ dst.getLsbD dstBit.toNat) :
    copyBit src srcBit dst dstBit = (1#8 <<< dstBit.toNat) ^^^ dst := by
  refine (eq_copyBit fun i hi => ?_).symm
  rw [BitVec.getLsbD_xor, ← BitVec.twoPow_eq, BitVec.getLsbD_twoPow]
  by_cases hd : i = dstBit.toNat
  · subst hd
    rw [if_pos rfl, Bool.eq_not.mpr h]
    simp [hi]
  · simp [hd, Ne.symm hd]

theorem copyBit_xor (src dst : Byte) (srcBit dstBit : BitVec 3) : copyBit src srcBit dst dstBit ^^^ dst =
    if src.getLsbD srcBit.toNat = dst.getLsbD dstBit.toNat then 0x00#8 else 1#8 <<< dstBit.toNat := by
  split_ifs with h
  · rw [copyBit_of_bits_eq h.symm, BitVec.xor_self]
  · rw [copyBit_of_bits_ne h, BitVec.xor_assoc, BitVec.xor_self, BitVec.xor_zero]

theorem copyBit_comm (src src' dst : Byte) (srcBit srcBit' : BitVec 3) {dstBit dstBit' : BitVec 3}
    (hne : dstBit ≠ dstBit') : copyBit src' srcBit' (copyBit src srcBit dst dstBit) dstBit' =
      copyBit src srcBit (copyBit src' srcBit' dst dstBit') dstBit := by
  refine eq_copyBit fun i hi => ?_
  rw [copyBit_getLsbD _ _ _ _ hi, copyBit_getLsbD _ _ _ _ hi, copyBit_getLsbD _ _ _ _ hi]
  split_ifs with h' h
  · exact absurd (BitVec.eq_of_toNat_eq (h.symm.trans h')) hne
  · rfl
  · rfl
  · rfl

/-- The source matters through its bit alone. -/
theorem copyBit_congr {src src' : Byte} {srcBit srcBit' : BitVec 3}
    (h : src.getLsbD srcBit.toNat = src'.getLsbD srcBit'.toNat) (dst : Byte) (dstBit : BitVec 3) :
    copyBit src srcBit dst dstBit = copyBit src' srcBit' dst dstBit :=
  eq_copyBit fun i hi => by rw [copyBit_getLsbD _ _ _ _ hi, h]

/-- Copies to a list of bits, one after the other: a bit that is listed has its source bit, the others stay. -/
theorem foldl_copyBit_getLsbD (src : BitVec 3 → Byte) (srcBit : BitVec 3 → BitVec 3) (i : BitVec 3)
    (order : List (BitVec 3)) (dst : Byte) :
    (order.foldl (fun d j => copyBit (src j) (srcBit j) d j) dst).getLsbD i.toNat =
      if i ∈ order then (src i).getLsbD (srcBit i).toNat else dst.getLsbD i.toNat := by
  induction order generalizing dst with
  | nil => rfl
  | cons j order ih =>
    rw [List.foldl_cons, ih]
    by_cases hin : i ∈ order
    · rw [if_pos hin, if_pos (List.mem_cons_of_mem j hin)]
    rw [if_neg hin]
    by_cases hij : i = j
    · rw [hij, copyBit_getLsbD_same, if_pos List.mem_cons_self]
    · rw [copyBit_getLsbD_other _ _ _ i.isLt (mt BitVec.eq_of_toNat_eq hij), if_neg (by simp [hij, hin])]

/-- Settles O8: law by law; a second copy of the same bit finds the two bits equal (b). -/
theorem copyBitLaws : Obligations.CopyBitLaws :=
  ⟨copyBit_xor, fun src dst sb db => copyBit_of_bits_eq (copyBit_getLsbD_same src sb dst db),
    fun src src' dst sb sb' _ _ => copyBit_comm src src' dst sb sb', fun _ _ dst _ _ db h => copyBit_congr h dst db,
    fun src sb dst order hall i => by rw [foldl_copyBit_getLsbD, if_pos (hall i)],
    by decide, by decide, by decide, by decide⟩

/-! ## MAP -/

/-- Settles O9: `8 * j + k` with `k < 8` is read back by division. -/
theorem mapIsABijection : Obligations.MapIsABijection := by
  refine ⟨fun r j k hr hj hk => ?_, fun p x b hp hx hb => ⟨?_, ?_, fun r j k hr hj hk h => ?_⟩⟩
  · simp only [mapIndex]
    omega
  · omega
  · simp only [mapIndex, PixelPlace.mk.injEq]
    omega
  · simp only [mapIndex, PixelPlace.mk.injEq] at h
    omega

end Sys2Proof.Machine
end

section
/-! CONVERT as a whole (40_remap.md R134 to R139): what it leaves in the Display Buffer, by the closed form of its loop nest,
and what it leaves elsewhere. -/

namespace Sys2Proof.Machine

/-! ## A CONVERT that runs -/

/-- A CONVERT of 1024 bytes runs to its end: every cell bit is the source bit R137 names, and only the remap unit's registers
and the operation's records change beside it. -/
theorem convert_ended {o : Operands} {s : State} (hidle : s.phase = .idle) (hlen : o.len = 1024#16) :
    ∃ t, exec (.convert o) s = .next t ∧ Ended 0#3 o [] s t ∧ t.rdr = s.rdr ∧ t.seq = s.seq ∧
      t.rmp = (runConvert (s.started 0#3 o .cvInit)).rmp ∧
      ∀ (p : PageIdx) (x : SegIdx) (b : Nat), b < 8 → (t.cell p x).getLsbD b =
        (s.opbByte (16 * (8 * p.toNat + b) + x.toNat / 8)).getLsbD (7 - x.toNat % 8) := by
  obtain ⟨hrdr, hseq, hburst⟩ := runConvert_rest (s.started 0#3 o .cvInit)
  obtain ⟨t, hexec, hended, hdb, hrmp, hrdr', hseq'⟩ := operation_ended (p := .cvInit)
    (check := convertCheck) hidle (convertCheck_none.mpr hlen) (runConvert_sends _) hburst
  refine ⟨t, hexec, hended, hrdr'.trans hrdr, hseq'.trans hseq, hrmp, fun p x b hb => ?_⟩
  rw [State.cell, hdb]
  exact runConvert_cell (s.started 0#3 o .cvInit) p x hb

/-- What a given CONVERT has left in the buffer. -/
theorem convert_cell {o : Operands} {s t : State} (hidle : s.phase = .idle) (hlen : o.len = 1024#16)
    (h : exec (.convert o) s = .next t) (p : PageIdx) (x : SegIdx) {b : Nat} (hb : b < 8) : (t.cell p x).getLsbD b =
      (s.opbByte (16 * (8 * p.toNat + b) + x.toNat / 8)).getLsbD (7 - x.toNat % 8) := by
  obtain ⟨u, hu, -, -, -, -, hcell⟩ := convert_ended hidle hlen
  cases h.symm.trans hu
  exact hcell p x b hb

/-! ## Pixels (10_state.md R21, 20_memory.md R53) -/

/-- The cell at an address below 1024 (20_memory.md R52). -/
theorem cell_ofNat (s : State) {a : Nat} (ha : a < 1024) :
    s.cell (BitVec.ofNat 3 (a / 128)) (BitVec.ofNat 7 (a % 128)) = s.db.read a := by
  rw [State.cell, cellAddr, BitVec.toNat_ofNat, BitVec.toNat_ofNat]
  congr 1
  omega

/-- A buffer whose cell bits are the bitmap's has its pixels. -/
theorem bufferPixel_eq_sourcePixel {s t : State} (h : ∀ (p : PageIdx) (x : SegIdx) (b : Nat), b < 8 →
      (t.cell p x).getLsbD b = (s.opbByte (16 * (8 * p.toNat + b) + x.toNat / 8)).getLsbD (7 - x.toNat % 8))
    {x y : Nat} (hx : x < 128) (hy : y < 64) : t.bufferPixel x y = s.sourcePixel x y := by
  have hp : (BitVec.ofNat 3 ((128 * (y / 8) + x) / 128)).toNat = y / 8 := by rw [BitVec.toNat_ofNat]; omega
  have hs : (BitVec.ofNat 7 ((128 * (y / 8) + x) % 128)).toNat = x := by rw [BitVec.toNat_ofNat]; omega
  rw [State.bufferPixel, ← cell_ofNat t (by omega), h _ _ _ (Nat.mod_lt y (by omega)), hp, hs, Nat.div_add_mod,
    State.sourcePixel]

/-- Settles O10: the cells by the closed form, the pixels by the cells, the frame by `Ended`. -/
theorem convertTransposes : Obligations.ConvertTransposes := by
  intro o s hidle hlen
  obtain ⟨t, hexec, hended, hrdr, hseq, -, hcell⟩ := convert_ended hidle hlen
  exact ⟨t, hexec, hcell, fun x y hx hy => bufferPixel_eq_sourcePixel hcell hx hy, hended, hrdr, hseq⟩

/-- Settles O11: the registers are those the loop nest leaves. -/
theorem convertCountersWrap : Obligations.ConvertCountersWrap := by
  intro o s hidle hlen
  obtain ⟨t, hexec, -, -, -, hrmp, -⟩ := convert_ended hidle hlen
  obtain ⟨hrow, hidx, hseg, hdbit, hpage, hoff⟩ := runConvert_rmp (s.started 0#3 o .cvInit)
  refine ⟨t, hexec, ?_⟩
  rw [hrmp]
  exact ⟨hpage, hdbit, hseg, hoff, hrow, hidx, runConvert_sbyte _⟩

/-- Settles O12: the check answers E_LEN. -/
theorem convertRejectsOtherLengths : Obligations.ConvertRejectsOtherLengths := fun _ _ hidle hlen =>
  operation_rejected hidle (if_neg hlen) nofun

/-! ## Particular bitmaps (R139) -/

/-- Settles O14: the source bit of a cell bit is the set one exactly at that place, since MAP is injective. -/
theorem convertSinglePixel : Obligations.ConvertSinglePixel := by
  intro o s R C hidle hlen hR hC hbitmap
  obtain ⟨t, hexec, -, -, -, -, hcell⟩ := convert_ended hidle hlen
  refine ⟨t, hexec, fun p x b hb => ?_⟩
  have hp := p.isLt
  have hx := x.isLt
  rw [hcell p x b hb, hbitmap _ _ (by omega) (by omega)]
  refine decide_eq_decide.mpr ?_
  omega

/-- CONVERT keeps the buffer's canonical form. -/
theorem convert_wf {o : Operands} {s t : State} (hidle : s.phase = .idle) (hlen : o.len = 1024#16) (hwf : s.db.wf)
    (h : exec (.convert o) s = .next t) : t.db.wf := by
  rw [execConvert_ran hidle hlen h, deliverDone_db, finish_db]
  exact runConvert_wf (s := s.started 0#3 o .cvInit) hwf

/-- Canonical buffers whose cells agree bit by bit are equal. -/
theorem db_ext {s t : State} (hs : s.db.wf) (ht : t.db.wf)
    (h : ∀ (p : PageIdx) (x : SegIdx) (b : Nat), b < 8 → (s.cell p x).getLsbD b = (t.cell p x).getLsbD b) :
    s.db = t.db := by
  refine Memory.wf_ext hs ht fun a ha => ?_
  rw [← cell_ofNat s ha, ← cell_ofNat t ha]
  exact BitVec.eq_of_getLsbD_eq fun b hb => h _ _ b hb

/-- Every cell bit has its source byte among the 1024. -/
theorem sourceIndex_lt (p : PageIdx) (x : SegIdx) {b : Nat} (hb : b < 8) :
    16 * (8 * p.toNat + b) + x.toNat / 8 < 1024 := by
  have hp := p.isLt
  have hx := x.isLt
  omega

/-- Settles O15: the cells depend on the 1024 bytes alone, and canonical buffers with the same cells are equal. -/
theorem convertForgetsOldBuffer : Obligations.ConvertForgetsOldBuffer := by
  refine ⟨fun o o' s s' t t' hi hi' hl hl' hw hw' hsame ht ht' => ?_, fun o s t hi hl hw hzero ht => ?_⟩
  · refine db_ext (convert_wf hi hl hw ht) (convert_wf hi' hl' hw' ht') fun p x b hb => ?_
    rw [convert_cell hi hl ht p x hb, convert_cell hi' hl' ht' p x hb, hsame _ (sourceIndex_lt p x hb)]
  · refine db_ext (convert_wf hi hl hw ht) resetMeetsTheInvariant.bufferWf fun p x b hb => ?_
    rw [convert_cell hi hl ht p x hb, hzero _ (sourceIndex_lt p x hb)]
    exact BitVec.getLsbD_zero.trans BitVec.getLsbD_zero.symm

end Sys2Proof.Machine
end

section
/-! CONVERT's registers at each of its micro-steps (40_remap.md R132, R136): every micro-step takes the relations of
`State.remapPlaced` at its own position to those at the next, and nothing else a step or a tick can do touches them. -/

namespace Sys2Proof.Machine

/-! ## States of which the rule says nothing -/

theorem remapPlaced_of_not_running {s : State} (h : s.phase ≠ .run) : s.remapPlaced := fun hrun => absurd hrun h

/-- The rule speaks of CONVERT's positions only. -/
theorem remapPlaced_of_other_operation {s : State} (h : s.pos.operation? ≠ some 0#3) : s.remapPlaced := by
  intro _
  split <;> rename_i hpos
  case h_10 => trivial
  all_goals exact absurd (congrArg Pos.operation? hpos) h

/-- An operation starts where nothing is required yet. -/
theorem start_remapPlaced (op : BitVec 3) (s : State) : (start (firstPos op) s).remapPlaced := by
  unfold firstPos
  split_ifs <;> exact fun _ => trivial

/-! ## The micro-steps of CONVERT -/

section

variable {s : State}

/-- Step 0: row 0, byte 0. -/
theorem cvInit_remapPlaced : ((cvInit s).goto .cvFetch).remapPlaced :=
  fun _ => ⟨rfl, by simp, by simp, rfl⟩

/-- Step 2 changes no register. -/
theorem cvCopy_remapPlaced (h : (s.goto .cvCopy).remapPlaced) : ((cvCopy s).goto .cvSeg).remapPlaced := h

/-- Step 4, the yield, changes nothing (R262). -/
theorem cvYield_remapPlaced (h : (s.goto .cvYield).remapPlaced) : (s.goto .cvOff).remapPlaced := h

variable (hrun : s.phase = .run)
include hrun

/-- Step 1 fetches `OPB[16*row + idx]`, and bit 7 goes to the first of the byte's eight segments. -/
theorem cvFetch_remapPlaced (h : (s.goto .cvFetch).remapPlaced) : ((cvFetch s).goto .cvCopy).remapPlaced := by
  obtain ⟨hoff, hpage, hdbit, hseg⟩ := h hrun
  simp only [goto_rmp] at hoff hpage hdbit hseg
  have hsource : s.rmp.source = 16 * s.rmp.row.toNat + s.rmp.idx.toNat := by rw [Rmp.source, hoff]
  refine fun _ => ⟨hoff, congrArg s.opbByte hsource, ?_⟩
  simp [mapIndex, hpage, hdbit, hseg]

/-- Step 3: the next bit down goes to the next segment; after bit 0 the segment is past the byte's eight. -/
theorem cvSeg_remapPlaced (h : (s.goto .cvSeg).remapPlaced) :
    ((cvSeg s).goto (if s.rmp.sbit = 0#3 then .cvIdx else .cvCopy)).remapPlaced := by
  obtain ⟨hoff, hbyte, hmap⟩ := h hrun
  simp only [goto_rmp, mapIndex, PixelPlace.mk.injEq] at hoff hbyte hmap
  obtain ⟨hpage, hseg, hdbit⟩ := hmap
  have hseg' : (s.rmp.seg + 1#7).toNat = (s.rmp.seg.toNat + 1) % 128 := BitVec.toNat_add ..
  have hidx := s.rmp.idx.isLt
  by_cases hlast : s.rmp.sbit = 0#3
  · rw [if_pos hlast]
    refine fun _ => ⟨hoff, hpage.symm, hdbit.symm, ?_⟩
    rw [hlast] at hseg
    simp only [goto_rmp, cvSeg_rmp, hseg', BitVec.toNat_ofNat] at hseg ⊢
    omega
  · rw [if_neg hlast]
    refine fun _ => ⟨hoff, hbyte, ?_⟩
    have hpos : s.rmp.sbit.toNat ≠ 0 := fun e => hlast (BitVec.eq_of_toNat_eq e)
    have hsbit : (s.rmp.sbit - 1#3).toNat = s.rmp.sbit.toNat - 1 := by bv_omega
    simp only [goto_rmp, cvSeg_rmp, mapIndex, PixelPlace.mk.injEq, hseg', hsbit]
    omega

/-- The byte loop's count: after byte 15 the row is done. -/
theorem cvIdx_remapPlaced (h : (s.goto .cvIdx).remapPlaced) :
    ((cvIdx s).goto (if s.rmp.idx = 15#4 then .cvYield else .cvFetch)).remapPlaced := by
  obtain ⟨hoff, hpage, hdbit, hseg⟩ := h hrun
  by_cases hlast : s.rmp.idx = 15#4
  · rw [if_pos hlast]
    refine fun _ => ⟨hoff, hpage, hdbit, ?_⟩
    rw [goto_rmp, cvIdx_rmp, hlast]
    rfl
  · rw [if_neg hlast]
    refine fun _ => ⟨hoff, hpage, hdbit, ?_⟩
    have hidx : (s.rmp.idx + 1#4).toNat = s.rmp.idx.toNat + 1 := by bv_omega
    simp only [goto_rmp, cvIdx_rmp, hidx] at hseg ⊢
    omega

/-- Step 5: the offset is the next row's, by the wrap of its ten bits. -/
theorem cvOff_remapPlaced (h : (s.goto .cvOff).remapPlaced) : ((cvOff s).goto .cvDbit).remapPlaced := by
  obtain ⟨hoff, hpage, hdbit, hidx⟩ := h hrun
  refine fun _ => ⟨?_, hpage, hdbit, hidx, rfl⟩
  simp only [goto_rmp, cvOff_rmp, BitVec.toNat_add, BitVec.toNat_ofNat] at hoff ⊢
  omega

/-- Step 6: the row bit is the next row's, and its wrap is the page's increment. -/
theorem cvDbit_remapPlaced (h : (s.goto .cvDbit).remapPlaced) : ((cvDbit s).goto .cvRow).remapPlaced := by
  obtain ⟨hoff, hpage, hdbit, hidx, hseg⟩ := h hrun
  simp only [goto_rmp] at hpage hdbit
  have hrow := s.rmp.row.isLt
  refine fun _ => ⟨hoff, ?_, ?_, hidx, hseg⟩
  · simp only [goto_rmp, cvDbit_rmp]
    by_cases hwrap : s.rmp.dbit = 7#3
    · rw [hwrap, BitVec.toNat_ofNat] at hdbit
      rw [if_pos hwrap, BitVec.toNat_add, BitVec.toNat_ofNat]
      omega
    · have hne : s.rmp.dbit.toNat ≠ 7 := fun e => hwrap (BitVec.eq_of_toNat_eq e)
      rw [if_neg hwrap]
      omega
  · simp only [goto_rmp, cvDbit_rmp, BitVec.toNat_add, BitVec.toNat_ofNat]
    omega

/-- The row loop's count: after row 63 every counter has wrapped to 0 (10_state.md R26). -/
theorem cvRow_remapPlaced (h : (s.goto .cvRow).remapPlaced) :
    ((cvRow s).goto (if s.rmp.row = 63#6 then .cvEnd else .cvFetch)).remapPlaced := by
  obtain ⟨hoff, hpage, hdbit, hidx, hseg⟩ := h hrun
  simp only [goto_rmp] at hoff hpage hdbit hidx hseg
  by_cases hlast : s.rmp.row = 63#6
  · rw [if_pos hlast]
    rw [hlast] at hoff hpage hdbit
    exact fun _ => ⟨congrArg (· + 1#6) hlast, hidx, hseg, BitVec.eq_of_toNat_eq hpage, BitVec.eq_of_toNat_eq hdbit,
      BitVec.eq_of_toNat_eq hoff⟩
  · rw [if_neg hlast]
    have hrow : (s.rmp.row + 1#6).toNat = s.rmp.row.toNat + 1 := by bv_omega
    have hlt := (s.rmp.row + 1#6).isLt
    refine fun _ => ⟨?_, ?_, ?_, ?_⟩ <;> simp only [goto_rmp, cvRow_rmp, hrow]
    · omega
    · omega
    · exact hdbit
    · rw [hseg, hidx]
      rfl

end

/-! ## Every step -/

/-- The micro-steps of the other operations stay in them (10_state.md R28). -/
theorem Ran.remapPlaced {s t : State} (h : Ran s t) (hother : s.pos.operation? ≠ some 0#3) : t.remapPlaced := by
  cases h with
  | silent f p _ _ hp => exact remapPlaced_of_other_operation (s := (f s).goto p) (hp ▸ hother)
  | begins payload p hp => exact remapPlaced_of_other_operation (s := (txBegin payload s).goto p) (hp ▸ hother)
  | ends f => exact remapPlaced_of_not_running (s := finish (f s)) nofun

theorem runStep_remapPlaced {s t : State} (hrun : s.phase = .run) (h : s.remapPlaced) (hstep : runStep s = .next t) :
    t.remapPlaced := by
  by_cases hother : s.pos.operation? ≠ some 0#3
  · exact (runStep_ran hstep).remapPlaced hother
  have hat : ∀ {p}, s.pos = p → (s.goto p).remapPlaced := fun e => e ▸ h
  unfold runStep at hstep
  split at hstep <;> rename_i hpos
  · cases hstep; exact cvInit_remapPlaced
  · cases hstep; exact cvFetch_remapPlaced hrun (hat hpos)
  · cases hstep; exact cvCopy_remapPlaced (hat hpos)
  · cases hstep; exact cvSeg_remapPlaced hrun (hat hpos)
  · cases hstep; exact cvIdx_remapPlaced hrun (hat hpos)
  · cases hstep; exact cvYield_remapPlaced (hat hpos)
  · cases hstep; exact cvOff_remapPlaced hrun (hat hpos)
  · cases hstep; exact cvDbit_remapPlaced hrun (hat hpos)
  · cases hstep; exact cvRow_remapPlaced hrun (hat hpos)
  · cases hstep; exact remapPlaced_of_not_running (s := finish (cvEnd s)) nofun
  all_goals exact absurd (by rw [hpos]; exact nofun) hother

/-- A call on TX touches neither the remap unit nor the operand buffer. -/
theorem txCall_remapPlaced {s : State} (h : s.remapPlaced) : (txCall s).remapPlaced := by
  obtain ⟨-, -, hopb, hphase, hpos, -, -, hrmp, hserial, -⟩ := txCall_fixed s
  unfold State.remapPlaced State.opbByte at h ⊢
  rwa [hopb, hphase, hpos, hrmp, hserial]

theorem micro_remapPlaced {s t : State} (h : s.remapPlaced) (hstep : micro s = .next t) : t.remapPlaced := by
  rcases micro_cases hstep with ⟨-, b, -, rfl⟩ | ⟨-, -, rfl⟩ | ⟨hrun, htx, -⟩ | ⟨-, -, rfl⟩
  · rcases checkStep_cases b s with ⟨-, e⟩ | ⟨c, -, -, e⟩ <;> rw [e]
    · exact start_remapPlaced _ s
    · exact remapPlaced_of_not_running (s := reject c s) nofun
  · exact txCall_remapPlaced h
  · exact runStep_remapPlaced hrun h (by simpa [micro, hrun, htx] using hstep)
  · exact remapPlaced_of_not_running (s := deliverDone s) nofun

/-- An idle block's step runs whatever it takes to its end, so it leaves the block idle (R28). -/
theorem idleStep_idle {s t : State} (hidle : s.phase = .idle) (hstep : idleStep s = .next t) : t.phase = .idle := by
  rcases idleStep_cases hstep with rfl | ⟨b, rest, -, rfl⟩ | ⟨rest, buf, i, he⟩ | ⟨rest, buf, w, rfl⟩
  · exact hidle
  · exact hidle
  · exact he.idle hidle
  · rfl

theorem step_remapPlaced {s t : State} (h : s.remapPlaced) (hstep : step s = .next t) : t.remapPlaced := by
  rcases step_cases hstep with ⟨-, -, rfl⟩ | ⟨-, -, hidle, -, hstep⟩ | ⟨-, -, -, hmicro⟩
  · exact remapPlaced_of_not_running (s := blockReset s) nofun
  · exact remapPlaced_of_not_running (by rw [idleStep_idle hidle hstep]; decide)
  · exact micro_remapPlaced h hmicro

/-- Settles O13: a tick is a step, or takes a command word and goes to CHECK. -/
theorem convertRegistersFollowTheMap : Obligations.ConvertRegistersFollowTheMap := by
  rintro s t h (htick | hstep)
  · rcases tick_cases htick with hstep | ⟨-, rest, buf, w, -, rfl⟩
    · exact step_remapPlaced h hstep
    · exact remapPlaced_of_not_running (s := acceptWord w { s with inbox := rest, opb := buf }) nofun
  · exact step_remapPlaced h hstep

end Sys2Proof.Machine
end

section
/-! The three frames at the device (41_sequencer.md R154 to R156): where each leaves the device's page, column and
memory when its transaction answered OK. -/

namespace Sys2Proof.Machine

/-- A frame whose transaction answers OK is received whole (20_memory.md R63). -/
theorem exec_frame_ok {i : Instr} {payload : List Byte} {s : State} (hw : i.wf = true)
    (he : encode s.cfg i = .payload payload) (htx : s.tx = none) (hok : (s.answer 0).status = .ok) :
    ∃ t, exec i s = .next t ∧ t.dev = s.dev.receive s.cfg payload :=
  ⟨txn payload s, exec_frame hw he htx, by rw [txn_dev, delivered_ok hok]⟩

namespace Device

@[simp] theorem setPage_page (p : PageIdx) (d : Device) : (d.setPage p).page = p := rfl
@[simp] theorem cell?_setPage (p : PageIdx) (d : Device) (q : PageIdx) (x : SegIdx) :
    (d.setPage p).cell? q x = d.cell? q x := rfl

/-- Byte `i` of a run of data bytes that stays inside the row stands `i` columns after the first (R155). -/
theorem writeAll_cell_getElem (c : Config) {bytes : List Byte} {d : Device} (h : d.col.toNat + bytes.length ≤ 128)
    {i : Nat} (hi : i < bytes.length) :
    (writeAll c bytes d).cell? d.page (BitVec.ofNat 7 (d.col.toNat + i)) = some bytes[i] := by
  have hx : (BitVec.ofNat 7 (d.col.toNat + i)).toNat = d.col.toNat + i := by
    rw [BitVec.toNat_ofNat]
    exact Nat.mod_eq_of_lt (by omega)
  rw [writeAll_cell c bytes d h, hx, if_pos ⟨rfl, by omega, by omega⟩, Nat.add_sub_cancel_left,
    List.getElem?_eq_getElem hi]

/-- A run of data bytes that stays inside the row writes no cell outside its columns of the page (R155). -/
theorem writeAll_cell_outside (c : Config) {bytes : List Byte} {d : Device} (h : d.col.toNat + bytes.length ≤ 128)
    {q : PageIdx} {x : SegIdx}
    (hout : ¬ (q = d.page ∧ d.col.toNat ≤ x.toNat ∧ x.toNat < d.col.toNat + bytes.length)) :
    (writeAll c bytes d).cell? q x = d.cell? q x := by
  rw [writeAll_cell c bytes d h, if_neg hout]

end Device

/-- Settles O19: the addressing payload, received whole, sets the page and the column (`receive_addr`). -/
theorem addressingPlacesTheDevice : Obligations.AddressingPlacesTheDevice := by
  intro p x s hcfg htx hok
  obtain ⟨t, ht, hdev⟩ := exec_frame_ok (i := .fa p x) (payload := addrPayload s.cfg p x) rfl rfl htx hok
  rw [Device.receive_addr hcfg] at hdev
  exact ⟨t, ht, by rw [hdev], by rw [hdev], by rw [hdev]⟩

/-- Settles O20: the burst, received whole, is a run of data bytes (`receive_data`), whose laws give every clause. -/
theorem dataBurstLandsAtTheDevice : Obligations.DataBurstLandsAtTheDevice := by
  intro bytes s hcfg htx hwf hok hrow
  obtain ⟨t, ht, hdev⟩ := exec_frame_ok hwf rfl htx hok
  rw [Device.receive_data hcfg] at hdev
  have hne : bytes ≠ [] := List.ne_nil_of_length_pos (Instr.fd_wf_iff.mp hwf).1
  refine ⟨t, ht, fun i hi => ?_, fun q x hout => ?_, ?_, fun hlt => ?_, fun w hend hw => ?_⟩ <;> rw [hdev]
  · exact Device.writeAll_cell_getElem s.cfg hrow hi
  · exact Device.writeAll_cell_outside s.cfg hrow hout
  · exact Device.writeAll_page s.cfg bytes s.dev
  · exact Device.writeAll_col s.cfg bytes s.dev (by omega)
  · exact Device.writeAll_col_wrap hw bytes s.dev hne hend

/-- Settles O21: the clear frame, received whole, selects the page and writes 128 zeros (`receive_clear`), which fill
exactly that page from either column the statement names (`writeAll_zeros`). -/
theorem clearFrameZeroesAPage : Obligations.ClearFrameZeroesAPage := by
  intro p s hcfg htx hok
  obtain ⟨t, ht, hdev⟩ := exec_frame_ok (i := .fc p) (payload := clearPayload s.cfg p) rfl rfl htx hok
  rw [Device.receive_clear hcfg] at hdev
  refine ⟨t, ht, by rw [hdev, Device.setRx_page, Device.writeAll_page, Device.setPage_page], fun hcol => ?_⟩
  obtain ⟨hcell, -⟩ := Device.writeAll_zeros rfl (s.dev.setPage p) hcol
  refine ⟨fun x => ?_, fun q x hq => ?_⟩ <;> rw [hdev, Device.cell?_setRx, hcell, Device.setPage_page]
  · exact if_pos rfl
  · rw [if_neg hq, Device.cell?_setPage]

end Sys2Proof.Machine
end

section
/-! The reader, FLUSH and BLIT as host operations (42_reader_flush_blit.md R170 to R179): what each sends and leaves when it
has run, where its transactions put the bytes at the device when they answered OK, and the order of BLIT's checks. -/

namespace Sys2Proof.Machine

/-! ## The reader (R170) -/

/-- An unlisted cell reads 0, and after reset no cell is listed (10_state.md R23). -/
theorem reader_reset (p : PageIdx) : State.reset.reader p = List.replicate 128 0x00#8 :=
  List.map_const' ..

/-- Settles O23: the loop's closed form (`flReads`), and a cell's linear address. -/
theorem readerGivesThePageRow : Obligations.ReaderGivesThePageRow :=
  ⟨fun s => flReads s 128, reader_eq_cells, fun _ _ => rfl, reader_reset⟩

/-! ## What FLUSH sends -/

/-- FLUSH has no precondition but the word's, so it runs from every idle state (R172). -/
theorem flush_ended (o : Operands) {s : State} (hidle : s.phase = .idle) :
    ∃ t, exec (.flush o) s = .next t ∧ Ended 1#3 o s.flushTrace s t ∧ t.db = s.db ∧ t.rdr = ⟨0#3, 0#7⟩ ∧
      t.rmp = s.rmp ∧ t.seq = s.seq := by
  obtain ⟨hdb, hrdr, hrmp, hseq, hburst⟩ := runFlush_rest (s.started 1#3 o .flInit)
  obtain ⟨t, hexec, hended, hdb', hrmp', hrdr', hseq'⟩ := operation_ended (p := .flInit) (check := flushCheck) hidle rfl
    (runFlush_sends (s.started 1#3 o .flInit)) hburst
  exact ⟨t, hexec, hended, hdb'.trans hdb, hrdr'.trans hrdr, hrmp'.trans hrmp, hseq'.trans hseq⟩

/-- The pages' addressing sequences byte by byte: the segment is 0, so both column bytes are their bases (R172). -/
theorem addrPayload_column_zero (c : Config) {p : Nat} (hp : p < 8) : addrPayload c (BitVec.ofNat 3 p) 0#7 =
    [c.ctrlCmdStream, c.colLowBase, c.colHighBase, c.pageSelBase ||| BitVec.ofNat 8 p] := by
  have hpage : (BitVec.ofNat 3 p).setWidth 8 = BitVec.ofNat 8 p := BitVec.setWidth_ofNat_of_le_of_lt (by omega) hp
  simp [addrPayload, frameFA, colLowByte, colHighByte, pageByte, hpage]

theorem flushTrace_bytes (s : State) : s.flushTrace = (List.range 8).flatMap fun p =>
    [[s.cfg.ctrlCmdStream, s.cfg.colLowBase, s.cfg.colHighBase, s.cfg.pageSelBase ||| BitVec.ofNat 8 p],
      s.cfg.ctrlDataStream :: s.reader (BitVec.ofNat 3 p)] :=
  List.flatMap_congr fun _ hp => by rw [addrPayload_column_zero _ (List.mem_range.mp hp), frameFD]

theorem length_frameFD_reader (s : State) (p : PageIdx) : (frameFD s.cfg (s.reader p)).length = 129 := by
  rw [frameFD, List.length_cons, length_reader]

/-- A page is 4 bytes of addressing and 129 of data. -/
theorem pagePayloads_bytes (s : State) (p : PageIdx) : ((s.pagePayloads p).map List.length).sum = 133 := by
  simp [State.pagePayloads, length_frameFD_reader, addrPayload, frameFA]

theorem flushTrace_payloadBytes (s : State) : (s.flushTrace.map List.length).sum = 1064 := by
  show (((List.range 8).flatMap fun p => s.pagePayloads (BitVec.ofNat 3 p)).map List.length).sum = 1064
  simp [List.flatMap_def, List.map_flatten, List.sum_flatten, Function.comp_def, pagePayloads_bytes]

/-- Settles O24: FLUSH runs, and its trace is the payloads byte by byte. -/
theorem flushSendsEveryPage : Obligations.FlushSendsEveryPage := by
  intro o s hidle
  obtain ⟨t, hexec, hended, hdb, hrdr, hrmp, hseq⟩ := flush_ended o hidle
  refine ⟨t, hexec, hended, hended.trace.trans (flushTrace_bytes s), length_frameFD_reader s, ?_, hdb, hrdr, hrmp, hseq⟩
  rw [hended.trace, flushTrace_payloadBytes]

/-! ## The traffic of two flushes (R176 (a)) -/

/-- The payloads are a function of the configuration and the buffer. -/
theorem flushTrace_congr {s t : State} (hcfg : t.cfg = s.cfg) (hdb : t.db = s.db) : t.flushTrace = s.flushTrace := by
  simp only [State.flushTrace, hcfg, reader_congr hdb]

/-- What a given FLUSH has left. -/
theorem flush_ran {o : Operands} {s t : State} (hidle : s.phase = .idle) (h : exec (.flush o) s = .next t) :
    Ended 1#3 o s.flushTrace s t ∧ t.db = s.db := by
  obtain ⟨u, hu, hended, hdb, -⟩ := flush_ended o hidle
  cases h.symm.trans hu
  exact ⟨hended, hdb⟩

/-- Settles O25: a flush sends `flushTrace`, and leaves the block idle with the same configuration and buffer. -/
theorem flushTrafficIsAFunctionOfTheBuffer : Obligations.FlushTrafficIsAFunctionOfTheBuffer := by
  refine ⟨fun o o' s s' t t' hidle hidle' hcfg hdb ht ht' => ?_, fun o o' s t u hidle ht hu => ?_⟩
  · obtain ⟨hended, -⟩ := flush_ran hidle ht
    obtain ⟨hended', -⟩ := flush_ran hidle' ht'
    rw [hended.trace, hended'.trace, flushTrace_congr hcfg hdb]
  · obtain ⟨hended, hdb⟩ := flush_ran hidle ht
    obtain ⟨hended', hdb'⟩ := flush_ran hended.idle.1 hu
    exact ⟨by rw [hended'.trace, hended.trace, flushTrace_congr hended.outside.1 hdb], hdb'.trans hdb⟩

/-! ## The device after a FLUSH (R176 (b)) -/

/-- The device once the payloads of the first `n` pages have been received whole. -/
def State.deviceFlushed (s : State) (n : Nat) : Device :=
  ((List.range n).flatMap fun p => s.pagePayloads (BitVec.ofNat 3 p)).foldl (fun d b => d.receive s.cfg b) s.dev

theorem deviceFlushed_succ (s : State) (n : Nat) : s.deviceFlushed (n + 1) =
    ((s.deviceFlushed n).receive s.cfg (addrPayload s.cfg (BitVec.ofNat 3 n) 0#7)).receive s.cfg
      (frameFD s.cfg (s.reader (BitVec.ofNat 3 n))) := by
  simp [State.deviceFlushed, List.range_succ, State.pagePayloads]

theorem reader_getElem? (s : State) (p : PageIdx) (x : SegIdx) : (s.reader p)[x.toNat]? = some (s.cell p x) := by
  simp [reader_eq_cells, List.getElem?_range x.isLt]

/-- The pages sent hold the buffer's rows, the others what they held. -/
theorem deviceFlushed_cell {s : State} (hcfg : s.cfg.wf = true) {n : Nat} (hn : n ≤ 8) (p : PageIdx) (x : SegIdx) :
    (s.deviceFlushed n).cell? p x = if p.toNat < n then some (s.cell p x) else s.dev.cell? p x := by
  induction n with
  | zero => rfl
  | succ n ih =>
    obtain ⟨hcell, -⟩ := Device.receive_page hcfg (BitVec.ofNat 3 n) (s.reader (BitVec.ofNat 3 n)) (length_reader s _)
      (s.deviceFlushed n)
    have hp : p = BitVec.ofNat 3 n ↔ p.toNat = n := by
      rw [← BitVec.toNat_inj, BitVec.toNat_ofNat, Nat.mod_eq_of_lt (by omega)]
    rw [deviceFlushed_succ, hcell, ih (by omega)]
    by_cases hlast : p = BitVec.ofNat 3 n
    · rw [if_pos hlast, if_pos (by rw [hp.mp hlast]; omega), hlast, reader_getElem?]
    · have hne := mt hp.mpr hlast
      rw [if_neg hlast]
      exact if_congr (by omega) rfl rfl

/-- Settles O26: the device has received the sixteen payloads whole; each page's two leave it on that page, the last on
page 7. -/
theorem flushMakesTheDeviceEqualTheBuffer : Obligations.FlushMakesTheDeviceEqualTheBuffer := by
  intro o s hidle hcfg hok
  obtain ⟨t, hexec, hended, -⟩ := flush_ended o hidle
  have hlen : s.flushTrace.length = 16 := rfl
  have hdev : t.dev = s.deviceFlushed 8 := by
    rw [hended.device, deviceAfter_ok (hlen ▸ hok)]
    rfl
  obtain ⟨-, hpage, hcol⟩ := Device.receive_page hcfg 7#3 (s.reader 7#3) (length_reader s _) (s.deviceFlushed 7)
  refine ⟨t, hexec, fun p x => ?_, ?_, fun w hw => ?_, ?_⟩
  · rw [hdev, deviceFlushed_cell hcfg le_rfl, if_pos p.isLt]
  · rw [hdev, deviceFlushed_succ]
    exact hpage
  · rw [hdev, deviceFlushed_succ]
    exact hcol w hw
  · rw [hended.result, hlen, resultOf_ok hok]

/-! ## BLIT (R178) -/

/-- A BLIT whose operands meet its checks runs from every idle state. -/
theorem blit_ended {o : Operands} {s : State} (hidle : s.phase = .idle) (hpage : o.page.toNat ≤ 7)
    (hseg : o.seg.toNat ≤ 127) (hpos : 1 ≤ o.width.toNat) (hend : o.seg.toNat + o.width.toNat ≤ 128)
    (hlen : o.width.toNat ≤ o.len.toNat) :
    ∃ t, exec (.blit o) s = .next t ∧ Ended 3#3 o (s.blitTrace o) s t ∧ t.db = s.db ∧ t.rmp = s.rmp ∧ t.rdr = s.rdr ∧
      t.seq = { s.seq with cidx := o.width.setWidth 16 } :=
  have hexec := operation_idle hidle
  ⟨_, hexec, execBlit_ran hidle (blitCheck_none.mpr ⟨hpage, hseg, hpos, hend, hlen⟩) hexec⟩

/-- Settles O27: BLIT runs. -/
theorem blitSendsItsBytes : Obligations.BlitSendsItsBytes := by
  intro o s hidle hpage hseg hpos hend hlen
  obtain ⟨t, hexec, hended, hdb, hrmp, hrdr, hseq⟩ := blit_ended hidle hpage hseg hpos hend hlen
  exact ⟨t, hexec, hended, hdb, hrdr, hrmp, hseq⟩

/-! ## The device after a BLIT (R179) -/

/-- A page and a segment of 8 bits that are in range address as those of 3 and 7 bits do (30_encoding.md R102, R103). -/
theorem frameFA_eq_addrPayload (c : Config) {p x : Byte} (hp : p.toNat ≤ 7) (hx : x.toNat ≤ 127) :
    frameFA c p x = addrPayload c (p.setWidth 3) (x.setWidth 7) := by
  rw [addrPayload, BitVec.setWidth_setWidth_eq_self (by simp [BitVec.lt_def]; omega),
    BitVec.setWidth_setWidth_eq_self (by simp [BitVec.lt_def]; omega)]

/-- An addressing sequence and a burst that stays inside the row, both received whole: the bytes stand in the page from the
segment on, and every other cell is as before (41_sequencer.md R158). -/
theorem Device.receive_burst {c : Config} (hcfg : c.wf = true) (p : PageIdx) (x : SegIdx) {bytes : List Byte}
    (h : x.toNat + bytes.length ≤ 128) (d : Device) (q : PageIdx) (y : SegIdx) :
    ((d.receive c (addrPayload c p x)).receive c (frameFD c bytes)).cell? q y =
      if q = p ∧ x.toNat ≤ y.toNat ∧ y.toNat < x.toNat + bytes.length then bytes[y.toNat - x.toNat]?
      else d.cell? q y := by
  rw [receive_addr hcfg, receive_data hcfg, cell?_setRx]
  exact writeAll_cell c bytes _ h q y

/-- What a blit's two payloads do to the device when both are received whole. -/
theorem blitTrace_cell {o : Operands} {s : State} (hcfg : s.cfg.wf = true) (hpage : o.page.toNat ≤ 7)
    (hseg : o.seg.toNat ≤ 127) (hend : o.seg.toNat + o.width.toNat ≤ 128) (q : PageIdx) (x : SegIdx) :
    ((s.blitTrace o).foldl (fun d b => d.receive s.cfg b) s.dev).cell? q x =
      if q.toNat = o.page.toNat ∧ o.seg.toNat ≤ x.toNat ∧ x.toNat < o.seg.toNat + o.width.toNat then
        some (s.opbByte (x.toNat - o.seg.toNat))
      else s.dev.cell? q x := by
  have hp : q = o.page.setWidth 3 ↔ q.toNat = o.page.toNat := by
    rw [← BitVec.toNat_inj, BitVec.toNat_setWidth, Nat.mod_eq_of_lt (by omega)]
  have hx : (o.seg.setWidth 7).toNat = o.seg.toNat := by rw [BitVec.toNat_setWidth, Nat.mod_eq_of_lt (by omega)]
  rw [State.blitTrace, frameFA_eq_addrPayload _ hpage hseg, List.foldl_cons, List.foldl_cons, List.foldl_nil,
    Device.receive_burst hcfg _ _ (by simpa [hx] using hend), List.length_map, List.length_range]
  simp only [hp, hx]
  by_cases hin : q.toNat = o.page.toNat ∧ o.seg.toNat ≤ x.toNat ∧ x.toNat < o.seg.toNat + o.width.toNat
  · rw [if_pos hin, if_pos hin, List.getElem?_map, List.getElem?_range (by omega)]
    rfl
  · rw [if_neg hin, if_neg hin]

/-- Settles O28: the device has received both payloads whole. -/
theorem blitWritesTheDevice : Obligations.BlitWritesTheDevice := by
  intro o s hidle hcfg hpage hseg hpos hend hlen hok₀ hok₁
  obtain ⟨t, hexec, hended, -⟩ := blit_ended hidle hpage hseg hpos hend hlen
  have hok : ∀ k, k < (s.blitTrace o).length → (s.answer k).status = .ok
    | 0, _ => hok₀
    | 1, _ => hok₁
  refine ⟨t, hexec, fun q x => ?_⟩
  rw [hended.device, deviceAfter_ok hok, blitTrace_cell hcfg hpage hseg hend]

/-! ## BLIT's checks (R178, 60_exceptions.md R212, R213) -/

/-- Settles O29: which check answers, case by case. -/
theorem blitRejectsInOrder : Obligations.BlitRejectsInOrder := by
  intro o s hidle
  refine ⟨fun hpage => ?_, fun hpage hseg => ?_, fun hpage hseg hwidth => ?_⟩
  · exact operation_rejected hidle (if_pos hpage) nofun
  · refine operation_rejected hidle ?_ nofun
    rw [blitCheck_accept, if_neg (by omega), if_pos hseg]
  · refine operation_rejected hidle ?_ nofun
    rw [blitCheck_accept, if_neg (by omega), if_neg (by omega), if_pos hwidth]

end Sys2Proof.Machine
end

section
/-! TEXT as a host operation (43_text.md R190 to R194): what it sends and leaves when it has run, and the text its check
rejects. -/

namespace Sys2Proof.Machine

/-- Settles O30: TEXT runs on an idle block, and what its loop leaves in the cursor fits the registers: at most 7 newlines
in 3 bits, the length in its own 16. -/
theorem textStreamsItsCharacters : Obligations.TextStreamsItsCharacters := by
  intro o s hidle hnl
  have hexec : exec (.text o) s = .next _ := operation_idle hidle
  obtain ⟨hended, hdb, hrmp, hrdr, hseq⟩ := execText_ran hidle hnl hexec
  refine ⟨_, hexec, hended, ?_, ?_, ?_, ?_, hdb, hrdr, hrmp⟩
  · rw [hended.trace, length_textTrace, Nat.add_comm]
  · rw [hseq, BitVec.toNat_ofNat, Nat.mod_eq_of_lt (by omega)]
  · rw [hseq, BitVec.ofNat_toNat, BitVec.setWidth_eq]
  · rw [hseq]
    rfl

/-- Settles O31: the check answers E_PAGE_OVF. -/
theorem textRejectsPageOverflow : Obligations.TextRejectsPageOverflow := fun _ _ hidle hnl =>
  operation_rejected hidle (if_pos hnl) nofun

end Sys2Proof.Machine
end

section
/-! CLEAR as a host operation (44_clear.md R200 to R203): what it sends and leaves when it has run, and the device after eight
clear frames received whole. -/

namespace Sys2Proof.Machine

/-! ## What CLEAR sends and leaves -/

/-- CLEAR has no precondition but the word's, so it runs from every idle state (R200). -/
theorem clear_ended (o : Operands) {s : State} (hidle : s.phase = .idle) :
    ∃ t, exec (.clear o) s = .next t ∧ Ended 2#3 o (clearTrace s.cfg) s t ∧
      (∀ (p : PageIdx) (x : SegIdx), t.cell p x = 0x00#8) ∧ t.rdr = { s.rdr with rpage := 0#3 } ∧ t.rmp = s.rmp ∧
      t.seq = s.seq := by
  obtain ⟨hrdr, hrmp, hseq, hburst, -⟩ := runClear_rest (s.started 2#3 o .clInit)
  obtain ⟨t, hexec, hended, hdb, hrmp', hrdr', hseq'⟩ := operation_ended (p := .clInit) (check := clearCheck) hidle rfl
    (runClear_sends (s.started 2#3 o .clInit)) hburst
  refine ⟨t, hexec, hended, fun p x => ?_, hrdr'.trans hrdr, hrmp'.trans hrmp, hseq'.trans hseq⟩
  rw [State.cell, hdb]
  exact runClear_cell (s.started 2#3 o .clInit) p x

/-- The eight payloads byte by byte (R201). -/
theorem clearTrace_bytes (c : Config) : clearTrace c = (List.range 8).map fun p =>
    [c.ctrlCmdSingle, c.pageSelBase ||| BitVec.ofNat 8 p, c.ctrlDataStream] ++ List.replicate 128 0x00#8 := by
  refine List.map_congr_left fun p hp => ?_
  have hpage : (BitVec.ofNat 3 p).setWidth 8 = BitVec.ofNat 8 p :=
    BitVec.setWidth_ofNat_of_le_of_lt (by omega) (List.mem_range.mp hp)
  rw [clearPayload, frameFC, pageByte, hpage]

theorem length_clearPayload (c : Config) (p : PageIdx) : (clearPayload c p).length = 131 := by
  obtain ⟨-, -, -, -, -, hlen⟩ := frameLayouts c p 0#7 []
  exact hlen

theorem clearTrace_payloadBytes (c : Config) : ((clearTrace c).map List.length).sum = 1048 := by
  simp [clearTrace, Function.comp_def, length_clearPayload]

/-- Settles O32: CLEAR runs, every cell is 0 whatever the answers, and its trace is the payloads byte by byte. -/
theorem clearZeroesTheBuffer : Obligations.ClearZeroesTheBuffer := by
  intro o s hidle
  obtain ⟨t, hexec, hended, hcell, hrdr, hrmp, hseq⟩ := clear_ended o hidle
  refine ⟨t, hexec, hended, hended.trace.trans (clearTrace_bytes s.cfg), ?_, hcell, hrdr, hrmp, hseq⟩
  rw [hended.trace, clearTrace_payloadBytes]

/-! ## The device after a CLEAR (R203 (a)) -/

namespace Device

/-- A clear frame received whole, the column wrapping to 0: its page is zero, every other page and the column are as before
(41_sequencer.md R156). -/
theorem receive_clear_wrap {c : Config} (hcfg : c.wf = true) (hwrap : c.colWrap = .to 0) (p : PageIdx) (d : Device) :
    (∀ (q : PageIdx) (x : SegIdx), (d.receive c (clearPayload c p)).cell? q x =
      if q = p then some 0x00#8 else d.cell? q x) ∧
    (d.receive c (clearPayload c p)).page = p ∧ (d.receive c (clearPayload c p)).col = d.col := by
  obtain ⟨hcell, hcol⟩ := writeAll_zeros (c := c) rfl (d.setPage p) (.inr hwrap)
  rw [receive_clear hcfg, setRx_page, writeAll_page, setRx_col, hcol hwrap]
  refine ⟨fun q x => ?_, rfl, rfl⟩
  rw [cell?_setRx, hcell, setPage_page, cell?_setPage]

/-- The device once the clear frames of the first `n` pages have been received whole. -/
def cleared (c : Config) (d : Device) (n : Nat) : Device :=
  ((List.range n).map fun p => clearPayload c (BitVec.ofNat 3 p)).foldl (fun e b => e.receive c b) d

theorem cleared_succ (c : Config) (d : Device) (n : Nat) :
    d.cleared c (n + 1) = (d.cleared c n).receive c (clearPayload c (BitVec.ofNat 3 n)) := by
  simp [cleared, List.range_succ]

/-- The pages cleared are zero, the others hold what they held; the device stands on the last page cleared, its column back
where it stood. -/
theorem cleared_pages {c : Config} (hcfg : c.wf = true) (hwrap : c.colWrap = .to 0) (d : Device) {n : Nat} (hn : n ≤ 8) :
    (∀ (p : PageIdx) (x : SegIdx), (d.cleared c n).cell? p x =
      if p.toNat < n then some 0x00#8 else d.cell? p x) ∧
    (0 < n → (d.cleared c n).page = BitVec.ofNat 3 (n - 1)) ∧ (d.cleared c n).col = d.col := by
  induction n with
  | zero => exact ⟨fun _ _ => rfl, nofun, rfl⟩
  | succ n ih =>
    obtain ⟨ihcell, -, ihcol⟩ := ih (by omega)
    obtain ⟨hcell, hpage, hcol⟩ := receive_clear_wrap hcfg hwrap (BitVec.ofNat 3 n) (d.cleared c n)
    rw [cleared_succ]
    refine ⟨fun p x => ?_, fun _ => hpage, hcol.trans ihcol⟩
    have hp : p = BitVec.ofNat 3 n ↔ p.toNat = n := by
      rw [← BitVec.toNat_inj, BitVec.toNat_ofNat, Nat.mod_eq_of_lt (by omega)]
    rw [hcell, ihcell]
    by_cases hlast : p.toNat = n
    · rw [if_pos (hp.mpr hlast), if_pos (by omega)]
    · rw [if_neg (mt hp.mp hlast)]
      exact if_congr (by omega) rfl rfl

end Device

/-- Settles O33: the device has received the eight clear frames whole, and each puts the column back for the next. -/
theorem clearZeroesTheDevice : Obligations.ClearZeroesTheDevice := by
  intro o s hidle hcfg hwrap hok
  obtain ⟨t, hexec, hended, -⟩ := clear_ended o hidle
  have hlen : (clearTrace s.cfg).length = 8 := rfl
  have hdev : t.dev = s.dev.cleared s.cfg 8 := hended.device.trans (deviceAfter_ok (hlen ▸ hok))
  obtain ⟨hcell, hpage, hcol⟩ := Device.cleared_pages hcfg hwrap s.dev le_rfl
  rw [← hdev] at hcell hpage hcol
  refine ⟨t, hexec, fun p x => ?_, hpage (by omega), hcol, ?_⟩
  · rw [hcell, if_pos p.isLt]
  · rw [hended.result, hlen, resultOf_ok hok]

end Sys2Proof.Machine
end

section
/-! The idle block (60_exceptions.md R226): offered nothing, it fetches nothing, and so its step changes nothing. -/

namespace Sys2Proof.Machine

theorem fetch_nothing {s : State} (h : s.inbox = []) : fetch s = .nothing := by
  simp [fetch, h]

/-- An idle block that fetches nothing stays as it is. -/
theorem idleStep_nothing {s : State} (hf : fetch s = .nothing) : idleStep s = .next s := by
  simp [idleStep, hf]

/-- Settles O50: an empty queue holds no command word to refuse and nothing to fetch. -/
theorem idleBlockHoldsItsState : Obligations.IdleBlockHoldsItsState := by
  intro s hrst hcfg hidle hinbox
  have hshort : s.shortOperand = false := shortOperand_other fun w buf rest => by simp [hinbox]
  rw [step_idle hrst hcfg hidle hshort, idleStep_nothing (fetch_nothing hinbox)]

end Sys2Proof.Machine
end

section
/-! Reset and hazards (70_reset_and_hazards.md): the reset input discards what is under way (R240 to R242), and a command
that reads an operand buffer shorter than its `c_len` is refused in both forms (R252). -/

namespace Sys2Proof.Machine

/-! ## The reset input -/

/-- The reset input is served before anything else. -/
theorem step_reset {s : State} (hcfg : s.cfg.wf = true) (hrst : s.rst = true) : step s = .next (blockReset s) := by
  simp [step, hcfg, hrst]

/-- With no transaction open a reset abandons none. -/
theorem abandoned_of_closed {s : State} (htx : s.tx = none) : s.abandoned = s.dev := by
  simp [State.abandoned, htx]

/-- Of an abandoned transaction the device has taken nothing or a first part of the payload (R241). -/
theorem abandoned_of_open {s : State} {o : OpenTx} (htx : s.tx = some o) :
    s.abandoned = s.dev ∨ ∃ n, s.abandoned = s.dev.receive s.cfg (o.payload.take n) := by
  obtain ⟨handle, payload, stage⟩ := o
  simp only [State.abandoned, htx]
  cases stage with
  | address | bytes => exact .inl rfl
  | finish => exact .inr ⟨_, rfl⟩

/-- Settles O40: the step is `blockReset`, whose only choice is what an abandoned transaction has delivered. -/
theorem resetInputDiscardsTheOperation : Obligations.ResetInputDiscardsTheOperation := by
  intro s hcfg hrst
  refine ⟨blockReset s, step_reset hcfg hrst, rfl, rfl, rfl, rfl, rfl, rfl, rfl, rfl, rfl, rfl, rfl, rfl, rfl,
    fun htx => ⟨abandoned_of_closed htx, ?_, ?_⟩, fun _ htx => abandoned_of_open htx⟩
  · simp [blockReset, htx]
  · simp [blockReset, htx]

/-! ## Too short an operand buffer -/

/-- A command word that is an operation has a next state, whatever the block is doing (10_state.md R31). -/
theorem exec_decodeWord_next {w : CommandWord} {i : Instr} (hd : decodeWord w = .instr i) (s : State) :
    ∃ t, exec i s = .next t := by
  obtain ⟨-, hi⟩ := decodeWord_instr hd
  rcases hi with ⟨-, rfl⟩ | ⟨-, rfl⟩ | ⟨-, rfl⟩ | ⟨-, rfl⟩ | ⟨-, rfl⟩ <;> exact ⟨_, rfl⟩

section
variable {s : State} {w : CommandWord} {buf : List Byte} {rest : List Item}

/-- An idle block takes every command word at the head of its queue, operation or not. -/
theorem idleStep_cmd_next (hinbox : s.inbox = .cmd w buf :: rest) : ∃ t, idleStep s = .next t := by
  cases hd : decodeWord w with
  | instr i =>
    rw [idleStep_instr (fetch_cmd hinbox) hd]
    exact exec_decodeWord_next hd _
  | rejected e =>
    rw [idleStep_rejected (fetch_cmd hinbox) hd]
    exact ⟨_, rfl⟩

/-- The buffer is too short exactly where the operation reads it and it is shorter than `c_len`. -/
theorem shortOperand_cmd_iff (hinbox : s.inbox = .cmd w buf :: rest) :
    s.shortOperand = true ↔ readsOperand w s = true ∧ buf.length < w.operands.len.toNat := by
  rw [shortOperand_cmd hinbox, Bool.and_eq_true, decide_eq_true_iff]

end

/-- Where the buffer is too short the micro-step is the step. -/
theorem tick_of_shortOperand {s : State} (hshort : s.shortOperand = true) : tick s = step s := by
  simp [tick, hshort]

/-- `OPB[i]` is the buffer's byte where it has one (20_memory.md R54). -/
theorem opbByte_eq (s : State) (i : Nat) :
    s.opbByte i = if h : i < s.opb.length then s.opb[i] else Config.freeOperand s.serial i :=
  List.getD_getElem?

/-- Settles O52: the condition is `State.shortOperand` read off the word's fields; where it holds both forms refuse, and
elsewhere the word is taken. -/
theorem shortOperandBufferIsRefused : Obligations.ShortOperandBufferIsRefused := by
  refine ⟨fun s w buf rest hrst hcfg hidle hinbox => ?_, opbByte_eq⟩
  intro short
  have hiff : s.shortOperand = true ↔ short := by
    rw [shortOperand_cmd_iff hinbox, readsOperand_iff, and_assoc, and_comm (b := buf.length < _)]
  refine ⟨fun h => ?_, fun h => ?_⟩
  · have hstep := step_short hrst hcfg hidle (hiff.mpr h)
    exact ⟨hstep, (tick_of_shortOperand (hiff.mpr h)).trans hstep⟩
  · have hshort : s.shortOperand = false := Bool.eq_false_iff.mpr (h ∘ hiff.mp)
    rw [step_idle hrst hcfg hidle hshort]
    exact ⟨idleStep_cmd_next hinbox, _, tick_cmd hrst hcfg hidle hinbox hshort⟩

end Sys2Proof.Machine
end

section
/-! The printed encodings (95_test_vectors.md V4, V5, V10). -/

namespace Sys2Proof

/-- What is printed for a well-formed instruction decodes to it, where it is what the encoder writes under the usual
constants. -/
theorem decode_printed {x : Encoded} {i : Instr} (hwf : i.wf = true) (hx : encode Config.usual i = x) :
    decode Config.usual x = .instr i :=
  (decode_iff (by decide)).mpr ⟨hwf, hx⟩

/-- Settles O3: what is printed for an instruction is its encoding, so it decodes by `decode_iff`; the two rejected words
have the code 5 (R91) and a reserved bit set (R93). -/
theorem printedEncodingsDecode : Obligations.PrintedEncodingsDecode := by
  refine ⟨?convert, ?flush, ?clear, ?blit, ?text, ?reservedOp, ?reservedBits, ?setColLow, ?setColHigh, ?setPage,
    ?ctrlCmdSingle, ?fa, ?fd, ?fc⟩
  case reservedOp | reservedBits => decide
  all_goals exact decode_printed rfl rfl

end Sys2Proof
end
